-- ==== Sys2Proof/Word.lean ====
section
/-! DEFINITION. The word types of the BigInt CORE: host and command words of 32 bits, bytes of BUF, register
numbers and the 16-bit immediate (spec/30_encoding.md R60, R61, R63; spec/10_state.md R25, R26). -/

namespace Sys2Proof

/-- A word of the host port, and a command word (R26, R60). -/
abbrev Word := BitVec 32

/-- A byte of the buffer BUF (R25). -/
abbrev Byte := BitVec 8

/-- A register number `0 .. 31`, naming `X0 .. X31` (R61). -/
abbrev Reg := BitVec 5

/-- The immediate of format I: unsigned, zero-extended, never scaled (R63). -/
abbrev Imm := BitVec 16

end Sys2Proof
end

