-- ==== Sys2Proof/Syntax.lean ====
section
/-! DEFINITION. The thirty commands of `BIGINT-CORE 1.0`, one constructor for each row of
spec/opcode_table.json (spec/30_encoding.md R64). -/

namespace Sys2Proof

/-- A command with its used fields, in the order of the `syntax` column of R64. -/
inductive Instr where
  | add (rd ra : Reg)
  | sub (rd ra : Reg)
  | cmp (ra rb : Reg)
  | shl (rd : Reg) (imm : Imm)
  | shr (rd : Reg) (imm : Imm)
  | getbit (rd : Reg) (imm : Imm)
  | setbit (rd : Reg) (imm : Imm)
  | clrbit (rd : Reg) (imm : Imm)
  | copy (rd ra : Reg)
  | ldb (rd : Reg) (imm : Imm)
  | stb (rd : Reg) (imm : Imm)
  | ldhex (rd : Reg) (imm : Imm)
  | sthex (rd : Reg) (imm : Imm)
  | mulhalf (rd ra rb : Reg)
  | rand (rd : Reg)
  | tabinit (rd : Reg)
  | tabshut (rd : Reg)
  | mod (rd ra : Reg)
  | mulmont (rd ra rb rc : Reg)
  | exp (rd ra rb rc : Reg)
  | tdiv (rd : Reg)
  | mrtest (rd : Reg) (imm : Imm)
  | genprime (rd : Reg)
  | genblum (rd ra rb : Reg)
  | genblumn (rd : Reg)
  | gcd (rd ra rb : Reg)
  | keygen
  | sign (imm : Imm)
  | verify (imm : Imm)
  | keyfin
  deriving DecidableEq, Repr

end Sys2Proof
end

