-- ==== Sys2Proof/WellFormed.lean ====
section
/-! DEFINITION. Which command terms are legal. Register numbers and immediates are legal by their types (all 32
values of a used register field name a register: spec/30_encoding.md R62); the one check left is GENBLUM's. -/

namespace Sys2Proof

/-- The three register numbers of a GENBLUM word are pairwise different (R62, R65). -/
def pairwiseDifferent (a b c : Reg) : Bool :=
  a != b && a != c && b != c

/-- A command that some legal word encodes. -/
def Instr.wellFormed : Instr → Bool
  | .add _ _ => true
  | .sub _ _ => true
  | .cmp _ _ => true
  | .shl _ _ => true
  | .shr _ _ => true
  | .getbit _ _ => true
  | .setbit _ _ => true
  | .clrbit _ _ => true
  | .copy _ _ => true
  | .ldb _ _ => true
  | .stb _ _ => true
  | .ldhex _ _ => true
  | .sthex _ _ => true
  | .mulhalf _ _ _ => true
  | .rand _ => true
  | .tabinit _ => true
  | .tabshut _ => true
  | .mod _ _ => true
  | .mulmont _ _ _ _ => true
  | .exp _ _ _ _ => true
  | .tdiv _ => true
  | .mrtest _ _ => true
  | .genprime _ => true
  | .genblum rd ra rb => pairwiseDifferent rd ra rb
  | .genblumn _ => true
  | .gcd _ _ _ => true
  | .keygen => true
  | .sign _ => true
  | .verify _ => true
  | .keyfin => true

end Sys2Proof
end

