-- ==== Sys2Proof/Decode.lean ====
section
/-! DEFINITION. The command word: its fields (spec/30_encoding.md R61), the decoder and the encoder, both written from
the opcode map of R64. A command is one 32-bit word written to CMD (R60); it is never fetched from bytes. -/

namespace Sys2Proof

/-- Why a word is illegal (R65). Every one of them raises `ILLCMD`. -/
inductive IllegalWord where
  /-- The opcode is unassigned: 0x00, 0x15 to 0x17, 0x1E, 0x1F, 0x24 to 0x3F. -/
  | unassignedOpcode
  /-- A bit of the `zero` field or of an unused register field is set. -/
  | fieldNotZero
  /-- A GENBLUM word whose three register fields are not pairwise different. -/
  | registersNotDifferent
  deriving DecidableEq, Repr

/-- `len` bits of a word from bit `lo` up. -/
def wordField (w : Word) (lo len : Nat) : BitVec len :=
  BitVec.ofNat len (w.toNat / 2 ^ lo)

/-- `opcode`, bits 31:26. -/
def opcodeField (w : Word) : Nat := (wordField w 26 6).toNat

/-- `rd`, bits 25:21. -/
def rdField (w : Word) : Reg := wordField w 21 5

/-- `ra`, bits 20:16 of format R. -/
def raField (w : Word) : Reg := wordField w 16 5

/-- `rb`, bits 15:11 of format R. -/
def rbField (w : Word) : Reg := wordField w 11 5

/-- `rc`, bits 10:6 of format R. -/
def rcField (w : Word) : Reg := wordField w 6 5

/-- `imm`, bits 15:0 of format I. -/
def immField (w : Word) : Imm := wordField w 0 16

/-- The bits of a word from `lo` up, `len` of them, are all 0. -/
def bitsZero (w : Word) (lo len : Nat) : Bool :=
  w.toNat / 2 ^ lo % 2 ^ len == 0

/-- A legal word when its must-be-zero bits are 0 (R61, R65). -/
def requireZero (zero : Bool) (i : Instr) : Except IllegalWord Instr :=
  if zero then .ok i else .error .fieldNotZero

/-- Format R using `rd` only: bits 20:0 are 0. -/
def decodeRd (w : Word) (f : Reg → Instr) : Except IllegalWord Instr :=
  requireZero (bitsZero w 0 21) (f (rdField w))

/-- Format R using `rd` and `ra`: bits 15:0 are 0. -/
def decodeRdRa (w : Word) (f : Reg → Reg → Instr) : Except IllegalWord Instr :=
  requireZero (bitsZero w 0 16) (f (rdField w) (raField w))

/-- Format R using `ra` and `rb`: bits 25:21 and 10:0 are 0. -/
def decodeRaRb (w : Word) (f : Reg → Reg → Instr) : Except IllegalWord Instr :=
  requireZero (bitsZero w 21 5 && bitsZero w 0 11) (f (raField w) (rbField w))

/-- Format R using `rd`, `ra` and `rb`: bits 10:0 are 0. -/
def decodeRdRaRb (w : Word) (f : Reg → Reg → Reg → Instr) : Except IllegalWord Instr :=
  requireZero (bitsZero w 0 11) (f (rdField w) (raField w) (rbField w))

/-- Format R using all four register fields: bits 5:0 are 0. -/
def decodeRdRaRbRc (w : Word) (f : Reg → Reg → Reg → Reg → Instr) : Except IllegalWord Instr :=
  requireZero (bitsZero w 0 6) (f (rdField w) (raField w) (rbField w) (rcField w))

/-- Format I using `rd` and `imm`: bits 20:16 are 0. -/
def decodeRdImm (w : Word) (f : Reg → Imm → Instr) : Except IllegalWord Instr :=
  requireZero (bitsZero w 16 5) (f (rdField w) (immField w))

/-- Format I using `imm` only: bits 25:16 are 0. -/
def decodeImm (w : Word) (f : Imm → Instr) : Except IllegalWord Instr :=
  requireZero (bitsZero w 16 10) (f (immField w))

/-- Format R using no field: bits 25:0 are 0. -/
def decodePlain (w : Word) (i : Instr) : Except IllegalWord Instr :=
  requireZero (bitsZero w 0 26) i

/-- GENBLUM: format R with three registers that are pairwise different (R62). -/
def decodeGenblum (w : Word) : Except IllegalWord Instr :=
  match decodeRdRaRb w .genblum with
  | .error e => .error e
  | .ok i => if i.wellFormed then .ok i else .error .registersNotDifferent

/-- The decoder: the command of a word, or why the word is illegal (R64, R65). -/
def decode (w : Word) : Except IllegalWord Instr :=
  match opcodeField w with
  | 0x01 => decodeRdRa w .add
  | 0x02 => decodeRdRa w .sub
  | 0x03 => decodeRaRb w .cmp
  | 0x04 => decodeRdImm w .shl
  | 0x05 => decodeRdImm w .shr
  | 0x06 => decodeRdImm w .getbit
  | 0x07 => decodeRdImm w .setbit
  | 0x08 => decodeRdImm w .clrbit
  | 0x09 => decodeRdRa w .copy
  | 0x0A => decodeRdImm w .ldb
  | 0x0B => decodeRdImm w .stb
  | 0x0C => decodeRdImm w .ldhex
  | 0x0D => decodeRdImm w .sthex
  | 0x0E => decodeRdRaRb w .mulhalf
  | 0x0F => decodeRd w .rand
  | 0x10 => decodeRd w .tabinit
  | 0x11 => decodeRd w .tabshut
  | 0x12 => decodeRdRa w .mod
  | 0x13 => decodeRdRaRbRc w .mulmont
  | 0x14 => decodeRdRaRbRc w .exp
  | 0x18 => decodeRd w .tdiv
  | 0x19 => decodeRdImm w .mrtest
  | 0x1A => decodeRd w .genprime
  | 0x1B => decodeGenblum w
  | 0x1C => decodeRd w .genblumn
  | 0x1D => decodeRdRaRb w .gcd
  | 0x20 => decodePlain w .keygen
  | 0x21 => decodeImm w .sign
  | 0x22 => decodeImm w .verify
  | 0x23 => decodePlain w .keyfin
  | _ => .error .unassignedOpcode

/-- A format R word: `opcode`, `rd`, `ra`, `rb`, `rc`, zero (R61). -/
def wordR (op : Nat) (rd ra rb rc : Reg) : Word :=
  BitVec.ofNat 32
    (op * 2 ^ 26 + rd.toNat * 2 ^ 21 + ra.toNat * 2 ^ 16 + rb.toNat * 2 ^ 11 + rc.toNat * 2 ^ 6)

/-- A format I word: `opcode`, `rd`, zero, `imm` (R61). -/
def wordI (op : Nat) (rd : Reg) (imm : Imm) : Word :=
  BitVec.ofNat 32 (op * 2 ^ 26 + rd.toNat * 2 ^ 21 + imm.toNat)

/-- The encoder: the command word of a command, unused fields 0 (R61, R64). -/
def encode : Instr → Word
  | .add rd ra => wordR 0x01 rd ra 0 0
  | .sub rd ra => wordR 0x02 rd ra 0 0
  | .cmp ra rb => wordR 0x03 0 ra rb 0
  | .shl rd imm => wordI 0x04 rd imm
  | .shr rd imm => wordI 0x05 rd imm
  | .getbit rd imm => wordI 0x06 rd imm
  | .setbit rd imm => wordI 0x07 rd imm
  | .clrbit rd imm => wordI 0x08 rd imm
  | .copy rd ra => wordR 0x09 rd ra 0 0
  | .ldb rd imm => wordI 0x0A rd imm
  | .stb rd imm => wordI 0x0B rd imm
  | .ldhex rd imm => wordI 0x0C rd imm
  | .sthex rd imm => wordI 0x0D rd imm
  | .mulhalf rd ra rb => wordR 0x0E rd ra rb 0
  | .rand rd => wordR 0x0F rd 0 0 0
  | .tabinit rd => wordR 0x10 rd 0 0 0
  | .tabshut rd => wordR 0x11 rd 0 0 0
  | .mod rd ra => wordR 0x12 rd ra 0 0
  | .mulmont rd ra rb rc => wordR 0x13 rd ra rb rc
  | .exp rd ra rb rc => wordR 0x14 rd ra rb rc
  | .tdiv rd => wordR 0x18 rd 0 0 0
  | .mrtest rd imm => wordI 0x19 rd imm
  | .genprime rd => wordR 0x1A rd 0 0 0
  | .genblum rd ra rb => wordR 0x1B rd ra rb 0
  | .genblumn rd => wordR 0x1C rd 0 0 0
  | .gcd rd ra rb => wordR 0x1D rd ra rb 0
  | .keygen => wordR 0x20 0 0 0 0
  | .sign imm => wordI 0x21 0 imm
  | .verify imm => wordI 0x22 0 imm
  | .keyfin => wordR 0x23 0 0 0 0

/-- The command a table row's word stands for, for the host: `nbits` bits of `w` are given, every bit above them is 0.
A command is one word (R60), so it has no byte order of its own. -/
def decodeTableWord (nbits w : Nat) : Option Instr :=
  if nbits ≤ 32 then
    match decode (BitVec.ofNat 32 (w % 2 ^ nbits)) with
    | .ok i => some i
    | .error _ => none
  else none

end Sys2Proof
end

