-- ==== Sys2Proof/Config.lean ====
section
/-! DEFINITION. The parameters of the machine (spec/00_scope.md R5 to R7; spec/92_eei_decisions.md section 2) and the
values the spec leaves unspecified (spec/70_reset_and_hazards.md R237), the latter and the open parameters as constants
without a body, so that a proof holds for every choice of them. -/

namespace Sys2Proof

/-- Which digits an over-long hex string keeps (R7, R92). -/
inductive HexTrunc where
  | keepLow
  | keepHigh
  deriving DecidableEq, Repr, Inhabited

namespace Config

/-- `LEN_S`: the length of a single-width register (R5). -/
def lenS : Nat := 1024

/-- `LEN_D`: the length of a double-width register (R5). -/
def lenD : Nat := 2048

/-- `BLOCK_BITS` (R5). -/
def blockBits : Nat := 30

/-- `WINDOW`: the exponentiation window in bits (R5). -/
def window : Nat := 5

/-- `NWIN`: the number of exponent windows, `ceil(1024/5)` (R6). -/
def numWindows : Nat := 205

/-- `MR_GEN_ROUNDS`: Miller–Rabin rounds inside prime generation (R5). -/
def mrGenRounds : Nat := 3

/-- `HALF`: the width in bits of a Blum prime (R6). -/
def half : Nat := 512

/-- `SMALL_PRIMES`: the fixed trial-division list (R5). -/
def smallPrimes : List Nat := [3, 5, 7, 11, 13, 17, 19, 23, 29, 31, 37]

/-- `BUFSIZE`: the default of the spec (R7). DESIGN CHOICE, unsafe for a CORE built with another size: log entry 3. -/
def bufSize : Nat := 4096

/-- `HEX_TRUNC`: an open parameter (R7, R92). -/
opaque hexTrunc : HexTrunc

/-- `HASH_ID`: an open parameter, the word HASHID reads as (R7, R19). -/
opaque hashId : Word

/-- `Hash`: the hash collaborator, a total function to 256 bits, first byte most significant (R28). -/
opaque hash : List Byte → BitVec 256

/-- The answer of the random-word collaborator at a position of its stream (R27): under no law. -/
opaque rngWord : Nat → Word

/-- A value no rule fixes, one for each draw (R8 `unspecified(L)`, R237 items 2, 3, 4). -/
opaque freeValue : Nat → BitVec 2048

/-- What a byte of BUF that nothing has written since a reset reads as: the first argument counts the resets, the
second is the byte's address (R31, R237 item 1). -/
opaque freeByte : Nat → Nat → Byte

end Config

end Sys2Proof
end

