-- ==== Sys2Proof/Machine/State.lean ====
section
/-! DEFINITION. The state of the BigInt CORE as plain data, the reasons a step could stop, and the state after reset
(spec/10_state.md R10 to R31; spec/70_reset_and_hazards.md R230). -/

namespace Sys2Proof.Machine

/-- Why the machine stops with no next state. THERE IS NO SUCH CASE: every misuse is a fault that the CORE itself takes
into a next state (spec/60_exceptions.md R203; spec/70_reset_and_hazards.md R237), an address that holds nothing reads as 0
(R26), and a retry loop goes on for ever in next states (R236). The type is empty (DEDUCED: log entry 21), which is safe: no
claim can rest on a stop of the model. -/
inductive Fault : Type
  deriving DecidableEq, Repr

/-- Why an instruction has no meaning. -/
inductive Refusal where
  /-- Raised by an arm of `exec` for a command that has no meaning yet; no arm raises it. Safe. -/
  | notModelled (mnemonic : String)
  deriving DecidableEq, Repr

/-- The fault causes of spec/60_exceptions.md R201, and "no fault recorded". -/
inductive Cause where
  | noFault
  | illcmd
  | pstate
  | width
  | bufrange
  | range
  | notable
  | tabactive
  | zeromod
  | reduce
  deriving DecidableEq, Repr

/-- The result of the last CMP (R20): the value 3 of the field is excluded by construction. -/
inductive Cmpr where
  | equal
  | greater
  | less
  deriving DecidableEq, Repr

/-- The protocol state (R22): the values 5 to 7 of the field are excluded by construction. -/
inductive PState where
  | uninitialized
  | keysGenerated
  | signing
  | verifying
  | finalized
  deriving DecidableEq, Repr

/-- A reduction table (R17). While `active` is false, `msb` and `entries` have no meaning and no command reads them. -/
structure Table where
  active : Bool
  msb : Nat
  entries : List (BitVec 1024)
  deriving DecidableEq, Repr

/-- A candidate prime under Miller–Rabin inside a command: its value and the rounds still to run (R30, R151). -/
structure Candidate where
  value : Nat
  rounds : Nat
  deriving DecidableEq, Repr

/-- Where the two half-width primes of a command go (R155, R156, R181). -/
inductive BlumDest where
  | genblum (rd ra rb : Reg)
  | genblumn (rd : Reg)
  | keygen
  deriving DecidableEq, Repr

/-- A command that runs and has come to a retry (spec/44_primality_generation.md R158, spec/60_exceptions.md R208), with
the hidden state that it keeps across the retry (R30). `none` for a candidate: the next one has still to be drawn. -/
inductive Job where
  /-- MRTEST of `rd`: a witness is to be redrawn, this many rounds are left. -/
  | mrtest (rd : Reg) (rounds : Nat)
  /-- GENPRIME into `rd`. -/
  | genprime (rd : Reg) (cand : Option Candidate)
  /-- GENBLUM, GENBLUMN or KEYGEN: the first prime once it is found, and the candidate at hand. -/
  | blum (dest : BlumDest) (first : Option Nat) (cand : Option Candidate)
  /-- SIGN of the message at this address: a new randomizer is to be drawn. -/
  | sign (addr : Imm)
  deriving DecidableEq, Repr

/-- What the outside does at the CORE's ports (R10, R26, R29), one entry a step. DESIGN CHOICE: log entry 4. -/
inductive HostAction where
  /-- The host does nothing and the CORE goes on with the command it runs, if any. -/
  | wait
  /-- `HostRead(a)`. -/
  | read (a : Nat)
  /-- `HostWrite(a, v)`. -/
  | write (a : Nat) (v : Word)
  /-- The hardware reset input. -/
  | reset
  deriving DecidableEq, Repr

/-- How far the answers from outside the rules have been used up: the MODEL's own bookkeeping. The random-word stream is
`queue` followed by the opaque `Config.rngWord` from position `rngPos + queue.length` on (R27). DESIGN CHOICE: log
entries 7 and 8. -/
structure Draws where
  /-- The next words of the random-word stream that are fixed by the run's environment. -/
  queue : List Word
  /-- How many words of the stream have been consumed. -/
  rngPos : Nat
  /-- How many unspecified values have been drawn. -/
  freePos : Nat
  deriving DecidableEq, Repr

/-- BUF: the bytes that have been written since reset, as (address, byte) pairs with rising addresses. -/
abbrev Memory := List Host.Cell

/-- The state of the machine. -/
structure State where
  /-- `X0 .. X23`, single width (R11). -/
  xs : Vector (BitVec 1024) 24
  /-- `X24 .. X31`, double width (R11). -/
  xd : Vector (BitVec 2048) 8
  /-- The reduction tables of `X0 .. X23` (R17). -/
  tabs : Vector Table 24
  /-- The byte buffer BUF (R25). -/
  buf : Memory
  /-- LEN, bits 15:0 (R19). -/
  len : BitVec 16
  /-- STATUS.FAULT (R20). -/
  fault : Bool
  /-- STATUS.CF (R20). -/
  cf : Bool
  /-- STATUS.CMPR (R20). -/
  cmpr : Cmpr
  /-- STATUS.TF (R20). -/
  tf : Bool
  /-- STATUS.WARN (R20). -/
  warn : Bool
  /-- STATUS.CERR (R20). -/
  cerr : Bool
  /-- STATUS.PSTATE (R22). -/
  pstate : PState
  /-- FCAUSE (R19, R23). -/
  fcause : Cause
  /-- FCMD (R19, R23). -/
  fcmd : Word
  /-- The command that runs, between two of its retries; STATUS.BUSY is 1 exactly when there is one (R20, R30). -/
  run : Option Job
  /-- The model's own: the actions of the host and of the reset input still to come. DESIGN CHOICE: log entry 4. -/
  agenda : List HostAction
  /-- The model's own: the word the last `HostRead` answered. DESIGN CHOICE: log entry 6. -/
  hostData : Word
  /-- The model's own: how far the outside answers have been used up. DESIGN CHOICE: log entries 7 and 8. -/
  draws : Draws
  /-- The model's own: how many resets have left BUF unspecified anew. DESIGN CHOICE: log entry 9. -/
  bufEpoch : Nat
  deriving DecidableEq, Repr

/-- A table that is not active. -/
def Table.closed : Table := { active := false, msb := 0, entries := [] }

/-- The state right after reset (R31): every register 0, every table inactive, STATUS, LEN, FCAUSE and FCMD 0, nothing
written in BUF. Nothing is on the agenda: the CORE is idle and waits for a write to CMD. DESIGN CHOICE for the values of the
model's own fields: log entry 20. -/
def State.reset : State where
  xs := Vector.replicate 24 0
  xd := Vector.replicate 8 0
  tabs := Vector.replicate 24 Table.closed
  buf := []
  len := 0
  fault := false
  cf := false
  cmpr := .equal
  tf := false
  warn := false
  cerr := false
  pstate := .uninitialized
  fcause := .noFault
  fcmd := 0
  run := none
  agenda := []
  hostData := 0
  draws := { queue := [], rngPos := 0, freePos := 0 }
  bufEpoch := 0

end Sys2Proof.Machine
end

