-- ==== Sys2Proof/Machine/Operands.lean ====
section
/-! DEFINITION. The operand forms: register lengths and roles, the blocks of a register (spec/10_state.md R11 to R13;
spec/00_scope.md R6), bit positions and lengths of integers (R8), and the three external orders of digits and bytes
(spec/20_memory.md R40 to R42). -/

namespace Sys2Proof.Machine

/-- `X0 .. X23` are single width, `X24 .. X31` double width (R11). -/
def isSingle (r : Reg) : Bool := decide (r.toNat < 24)

/-- `len(i)` (R11). -/
def regLen (r : Reg) : Nat := if isSingle r then Config.lenS else Config.lenD

/-- `KN = X16`, the public modulus (R13). -/
def regKN : Reg := 16
/-- `KP = X17`, the private prime `p` (R13). -/
def regKP : Reg := 17
/-- `KQ = X18`, the private prime `q` (R13). -/
def regKQ : Reg := 18
/-- `SR = X19`, the signature randomizer (R13). -/
def regSR : Reg := 19
/-- `SB = X20`, the signature value (R13). -/
def regSB : Reg := 20

/-- `bc(L)`, the number of blocks of a register of length `L` (R6). -/
def blockCount (len : Nat) : Nat := (len + Config.blockBits - 1) / Config.blockBits

/-- `lbb(L)`, the width of the last block (R6). -/
def lastBlockBits (len : Nat) : Nat := len % Config.blockBits

/-- `lbm(L)`, the mask of the last block (R6). -/
def lastBlockMask (len : Nat) : Nat := 2 ^ lastBlockBits len - 1

/-- `w_0 .. w_(bc-1)`, the widths of the blocks, least significant first (spec/41_fixedwidth_integer.md R80). -/
def blockWidths (len : Nat) : List Nat :=
  List.replicate (blockCount len - 1) Config.blockBits ++ [lastBlockBits len]

/-- The blocks of a value, by the widths of the blocks, least significant first (R12, R40). -/
def splitBlocks : List Nat → Nat → List Nat
  | [], _ => []
  | w :: ws, v => v % 2 ^ w :: splitBlocks ws (v / 2 ^ w)

/-- `blk(i,0) .. blk(i,bc-1)` of a register of length `L` that holds `v` (R12). -/
def toBlocks (len v : Nat) : List Nat := splitBlocks (blockWidths len) v

/-- The value of a block sequence: the sum of `block[j] * 2^(30*j)` (R12, R40). -/
def ofBlocks : List Nat → Nat
  | [] => 0
  | b :: bs => b + 2 ^ Config.blockBits * ofBlocks bs

/-- The last block of a sequence cut to its legal range (R12). -/
def maskLast (len : Nat) : List Nat → List Nat
  | [] => []
  | [b] => [b &&& lastBlockMask len]
  | b :: bs => b :: maskLast len bs

/-- Block `j` of a sequence changed by `f`. -/
def changeBlock (f : Nat → Nat) : Nat → List Nat → List Nat
  | _, [] => []
  | 0, b :: bs => f b :: bs
  | j + 1, b :: bs => b :: changeBlock f j bs

/-- `f n`, with `n` evaluated first. It is `f n` (Laws/Operands.lean, `evalFirst_eq`); the loops pass their accumulators
through it so that Lean's kernel can run them without nesting one turn inside the next. -/
def evalFirst {α : Type} (n : Nat) (f : Nat → α) : α :=
  match n with
  | 0 => f 0
  | k + 1 => f (k + 1)

/-- `msb(v)` for `v > 0`, the index of the highest set bit (R8). -/
def msbOf (v : Nat) : Nat := v.log2

/-- `bitlen(v)` (R8). -/
def bitlen (v : Nat) : Nat := if v = 0 then 0 else msbOf v + 1

/-- Trailing zero bits, at most `fuel` of them. -/
def trailingZeros : Nat → Nat → Nat
  | 0, _ => 0
  | fuel + 1, v => if v % 2 = 0 then trailingZeros fuel (v / 2) + 1 else 0

/-- `v2(v)` for `v > 0`, the number of trailing zero bits (R8). -/
def v2 (v : Nat) : Nat := trailingZeros (bitlen v) v

/-- `be(bytes)`: the integer whose big-endian base-256 digits are the bytes (R8, R41). -/
def beNat (bytes : List Byte) : Nat :=
  bytes.foldl (fun acc b => acc * 256 + b.toNat) 0

/-- `bytes_be(v, n)`: the `n` big-endian bytes of `v`, the most significant first (R8, R41). -/
def bytesBe (v : Nat) : Nat → List Byte
  | 0 => []
  | n + 1 => BitVec.ofNat 8 (v / 256 ^ n) :: bytesBe v n

/-- The value of an ASCII hex digit; `none` for any other byte (spec/41_fixedwidth_integer.md R92). -/
def hexDigit (b : Byte) : Option Nat :=
  let c := b.toNat
  if 0x30 ≤ c ∧ c ≤ 0x39 then some (c - 0x30)
  else if 0x41 ≤ c ∧ c ≤ 0x46 then some (c - 0x41 + 10)
  else if 0x61 ≤ c ∧ c ≤ 0x66 then some (c - 0x61 + 10)
  else none

/-- The digits of a hex string, or `none` when a byte is no hex digit (R92). -/
def hexDigits : List Byte → Option (List Nat)
  | [] => some []
  | b :: bs =>
    match hexDigit b, hexDigits bs with
    | some d, some ds => some (d :: ds)
    | _, _ => none

/-- The value of hex digits, the most significant first (R42, R92). -/
def hexValue (digits : List Nat) : Nat :=
  digits.foldl (fun acc d => acc * 16 + d) 0

/-- The digits an over-long string keeps: the last or the first `maxd`, as `HEX_TRUNC` says (R92). -/
def hexKeep (trunc : HexTrunc) (maxd : Nat) (digits : List Nat) : List Nat :=
  match trunc with
  | .keepLow => digits.drop (digits.length - maxd)
  | .keepHigh => digits.take maxd

/-- The ASCII character of a hex digit, upper case (R93). -/
def hexChar (v : Nat) : Byte :=
  if v < 10 then BitVec.ofNat 8 (0x30 + v) else BitVec.ofNat 8 (0x41 + (v - 10))

/-- The `n` hex characters of `v`, the most significant digit first (R42, R93). -/
def hexString (v : Nat) : Nat → List Byte
  | 0 => []
  | n + 1 => hexChar (v / 16 ^ n % 16) :: hexString v n

end Sys2Proof.Machine
end

