-- ==== Sys2Proof/Machine/Flags.lean ====
section
/-! DEFINITION. The flags: the carry, borrow and comparison chains over blocks that compute them
(spec/41_fixedwidth_integer.md R81 to R83), and the words STATUS, FCAUSE and TABACT that the host reads
(spec/10_state.md R19, R20, R22). -/

namespace Sys2Proof.Machine

/-- The addition chain of R81 over blocks of the given widths from a carry: the sum's blocks and the carry-out. -/
def addChain : List Nat → List Nat → List Nat → Nat → List Nat × Nat
  | w :: ws, a :: as, b :: bs, c =>
    let t := a + b + c
    let rest := addChain ws as bs (t / 2 ^ w)
    (t % 2 ^ w :: rest.1, rest.2)
  | _, _, _, c => ([], c)

/-- The subtraction chain of R82 from a borrow, with the marker bit `2^w` set above each block. -/
def subChain : List Nat → List Nat → List Nat → Nat → List Nat
  | w :: ws, a :: as, b :: bs, br =>
    let t := (a ||| 2 ^ w) - b - br
    t % 2 ^ w :: subChain ws as bs (1 - (t.testBit w).toNat)
  | _, _, _, _ => []

/-- Blocks compared from the most significant one down: both lists are given most significant first (R83). -/
def compareDown : List Nat → List Nat → Cmpr
  | a :: as, b :: bs => if a > b then .greater else if a < b then .less else compareDown as bs
  | _, _ => .equal

/-- The comparison procedure of R83: a non-zero block above the shorter operand settles it, otherwise the overlapping
blocks are compared from the top. -/
def compareBlocks (as bs : List Nat) : Cmpr :=
  if (as.drop bs.length).any (· != 0) then .greater
  else if (bs.drop as.length).any (· != 0) then .less
  else
    let n := min as.length bs.length
    compareDown (as.take n).reverse (bs.take n).reverse

/-- The code of CMPR, STATUS bits 4:3 (R20). -/
def Cmpr.code : Cmpr → Nat
  | .equal => 0
  | .greater => 1
  | .less => 2

/-- The code of PSTATE, STATUS bits 10:8 (R22). -/
def PState.code : PState → Nat
  | .uninitialized => 0
  | .keysGenerated => 1
  | .signing => 2
  | .verifying => 3
  | .finalized => 4

/-- The code of a fault cause, FCAUSE bits 3:0 (spec/60_exceptions.md R201). -/
def Cause.code : Cause → Nat
  | .noFault => 0
  | .illcmd => 1
  | .pstate => 2
  | .width => 3
  | .bufrange => 4
  | .range => 5
  | .notable => 6
  | .tabactive => 7
  | .zeromod => 8
  | .reduce => 9

/-- STATUS.BUSY: 1 while a command runs (R20). -/
def State.busy (s : State) : Bool := s.run.isSome

/-- The word STATUS reads as; bits 31:11 are 0 (R20). -/
def State.statusWord (s : State) : Word :=
  BitVec.ofNat 32
    (s.busy.toNat + 2 * s.fault.toNat + 4 * s.cf.toNat + 8 * s.cmpr.code + 32 * s.tf.toNat + 64 * s.warn.toNat
      + 128 * s.cerr.toNat + 256 * s.pstate.code)

/-- The word FCAUSE reads as; bits 31:4 are 0 (R19). -/
def State.fcauseWord (s : State) : Word := BitVec.ofNat 32 s.fcause.code

/-- The word LEN reads as; bits 31:16 are 0 (R19). -/
def State.lenWord (s : State) : Word := s.len.setWidth 32

/-- Flags as bits of a number, the first flag the least significant. -/
def packFlags : List Bool → Nat
  | [] => 0
  | b :: bs => b.toNat + 2 * packFlags bs

/-- The word TABACT reads as: bit `i` is `tab[i].active`, bits 31:24 are 0 (R19). -/
def State.tabactWord (s : State) : Word :=
  BitVec.ofNat 32 (packFlags (s.tabs.toList.map (·.active)))

/-- What a STATUS read answers while BUSY: bit 0 is 1, bits 10:8 are PSTATE and every other bit is as in `any`
(spec/20_memory.md R47). -/
def busyStatusWord (p : PState) (any : Word) : Word :=
  (any &&& ~~~0x701#32) ||| 1#32 ||| BitVec.ofNat 32 (256 * p.code)

/-! ## The writes of the flags (R21) -/

/-- `STATUS.CF <- c`. -/
def State.setCf (s : State) (c : Bool) : State := { s with cf := c }

/-- `STATUS.CMPR <- c`. -/
def State.setCmpr (s : State) (c : Cmpr) : State := { s with cmpr := c }

/-- `STATUS.TF <- b`. -/
def State.setTf (s : State) (b : Bool) : State := { s with tf := b }

/-- `STATUS.WARN <- w; STATUS.CERR <- e`: LDHEX writes both, always. -/
def State.setHexFlags (s : State) (w e : Bool) : State := { s with warn := w, cerr := e }

/-- `STATUS.PSTATE <- p`. -/
def State.setPstate (s : State) (p : PState) : State := { s with pstate := p }

end Sys2Proof.Machine
end

