-- ==== Sys2Proof/Machine/Ops.lean ====
section
/-! DEFINITION. The named operations over registers, tables, BUF, the collaborators and the unspecified values, and the
taking of a fault with reset, the only way out of it (spec/10_state.md R8 to R31; spec/20_memory.md R40 to R48;
spec/60_exceptions.md R203 to R206; spec/70_reset_and_hazards.md R230). -/

namespace Sys2Proof.Machine

/-! ## Registers -/

/-- `X[i]` (R8, R11). -/
def State.x (s : State) (r : Reg) : Nat :=
  if h : r.toNat < 24 then s.xs[r.toNat].toNat
  else (s.xd[r.toNat - 24]'(by have := r.isLt; omega)).toNat

/-- `X[i] <- v`, arithmetic modulo `2^len(i)` (R8; spec/41_fixedwidth_integer.md R97). -/
def State.setX (s : State) (r : Reg) (v : Nat) : State :=
  if h : r.toNat < 24 then { s with xs := s.xs.set r.toNat (BitVec.ofNat 1024 v) }
  else { s with xd := s.xd.set (r.toNat - 24) (BitVec.ofNat 2048 v) (by have := r.isLt; omega) }

/-- The blocks of register `i` (R12). -/
def State.blocks (s : State) (r : Reg) : List Nat := toBlocks (regLen r) (s.x r)

/-! ## Reduction tables -/

/-- `tab[i]`; a double-width register has none, and its flag reads 0 (R17). -/
def State.tab (s : State) (r : Reg) : Table :=
  if h : r.toNat < 24 then s.tabs[r.toNat] else Table.closed

/-- `tab[i]` replaced; nothing for a double-width register (R17). -/
def State.setTab (s : State) (r : Reg) (t : Table) : State :=
  if h : r.toNat < 24 then { s with tabs := s.tabs.set r.toNat t } else s

/-- `tab[i].active` (R17). -/
def State.tabActive (s : State) (r : Reg) : Bool := (s.tab r).active

/-- The table of the modulus `m`: `entry[j] = 2^(msb(m)+j) mod m` for `j = 0 .. msb(m)` (R17, R18;
spec/42_modular_engine.md R120). -/
def tableOf (m : Nat) : Table where
  active := true
  msb := msbOf m
  entries := (List.range (msbOf m + 1)).map fun j => BitVec.ofNat 1024 (2 ^ (msbOf m + j) % m)

/-- The table of register `i` built from its value (spec/42_modular_engine.md R120). -/
def State.openTab (s : State) (r : Reg) : State := s.setTab r (tableOf (s.x r))

/-- `tab[i].active <- 0`; the other fields keep bits that have no meaning (spec/42_modular_engine.md R121; R17). -/
def State.closeTab (s : State) (r : Reg) : State := s.setTab r { s.tab r with active := false }

/-! ## The byte buffer -/

/-- The byte listed at an address; `none` when nothing has been written there since reset. -/
def Memory.lookup : Memory → Nat → Option Byte
  | [], _ => none
  | (b, v) :: m, a => if a = b then some v else Memory.lookup m a

/-- A byte written, the addresses kept rising. -/
def Memory.insert : Memory → Nat → Byte → Memory
  | [], a, v => [(a, v)]
  | (b, w) :: m, a, v =>
    if a < b then (a, v) :: (b, w) :: m
    else if a = b then (a, v) :: m
    else (b, w) :: Memory.insert m a v

/-- Bytes written from an address up. -/
def Memory.insertList : Memory → Nat → List Byte → Memory
  | m, _, [] => m
  | m, a, v :: vs => Memory.insertList (m.insert a v) (a + 1) vs

/-- Every listed address is at least `lo`, and the addresses rise strictly. -/
def Memory.risingFrom : Nat → Memory → Bool
  | _, [] => true
  | lo, (a, _) :: m => decide (lo ≤ a) && Memory.risingFrom (a + 1) m

/-- The canonical form: the addresses rise strictly. An unlisted address reads as no written value at all, so no entry can
equal what it reads as. -/
def Memory.wf (m : Memory) : Bool := Memory.risingFrom 0 m

/-- Every listed address is a byte of BUF (R25). -/
def Memory.inBuf (m : Memory) : Bool := m.all fun c => decide (c.1 < Config.bufSize)

/-- `BUF[a]`. A byte that nothing has written since reset is unspecified and stays the same at every read (R31; reads are
idempotent, spec/20_memory.md R45). -/
def State.byte (s : State) (a : Nat) : Byte :=
  match s.buf.lookup a with
  | some v => v
  | none => Config.freeByte s.bufEpoch a

/-- `MemRead(a, n)` (R8). -/
def State.memRead (s : State) (a : Nat) : Nat → List Byte
  | 0 => []
  | n + 1 => s.byte a :: s.memRead (a + 1) n

/-- `MemWrite(a, n, bytes)` (R8). -/
def State.memWrite (s : State) (a : Nat) (bytes : List Byte) : State :=
  { s with buf := s.buf.insertList a bytes }

/-- `n` bytes at `a` reach past BUF (spec/20_memory.md R46). -/
def pastBuf (a n : Nat) : Bool := decide (a + n > Config.bufSize)

/-! ## The collaborators and the unspecified values -/

/-- `RngNext()` (R27). -/
def Draws.word (d : Draws) : Word × Draws :=
  match d.queue with
  | w :: ws => (w, { d with queue := ws, rngPos := d.rngPos + 1 })
  | [] => (Config.rngWord d.rngPos, { d with rngPos := d.rngPos + 1 })

/-- `unspecified(L)` (R8): a fresh draw, below `2^L` for `L <= 2048`. -/
def Draws.unspecified (len : Nat) (d : Draws) : Nat × Draws :=
  ((Config.freeValue d.freePos).toNat % 2 ^ len, { d with freePos := d.freePos + 1 })

/-- One word for each block, masked to the block's width, block 0 first (spec/41_fixedwidth_integer.md R96). -/
def fillBlocks : List Nat → Draws → List Nat × Draws
  | [], d => ([], d)
  | w :: ws, d =>
    let first := d.word
    let rest := fillBlocks ws first.2
    (first.1.toNat % 2 ^ w :: rest.1, rest.2)

/-- `RandFill(L)` (spec/41_fixedwidth_integer.md R96). -/
def randFill (len : Nat) (d : Draws) : Nat × Draws :=
  let filled := fillBlocks (blockWidths len) d
  (ofBlocks filled.1, filled.2)

/-! ## Faults and reset -/

/-- Fault entry (R203): FAULT, FCAUSE and FCMD are written, BUSY falls, nothing else changes. The one operation by which
every command, and the decoder, raises a fault. -/
def takeFault (c : Cause) (word : Word) (s : State) : State :=
  { s with fault := true, fcause := c, fcmd := word, run := none }

/-- The way out of a fault, and of anything else: reset (R204, R230). Every field of the CORE takes its reset value and BUF
is unspecified anew; the word stream goes on where it was; what the host still does is the host's (DESIGN CHOICE: log
entry 12). -/
def resetCore (s : State) : State :=
  { State.reset with
    agenda := s.agenda, hostData := s.hostData, draws := s.draws, bufEpoch := s.bufEpoch + 1 }

/-- The first cause whose condition holds. Each command lists its conditions by rising code, so this is the lowest code
(R206). -/
def firstCause : List (Bool × Cause) → Option Cause
  | [] => none
  | (bad, c) :: rest => if bad then some c else firstCause rest

/-- A command that checks its fault conditions on the start state, before anything changes (R205): it takes the first
fault, or has its effect. -/
def guarded (checks : List (Bool × Cause)) (i : Instr) (s effect : State) :
    Host.Outcome State Fault Refusal :=
  match firstCause checks with
  | some c => .next (takeFault c (encode i) s)
  | none => .next effect

/-! ## Running and drawing -/

/-- The answers from outside used up as far as `d` (R27, R49). -/
def State.setDraws (s : State) (d : Draws) : State := { s with draws := d }

/-- A command that has come to a retry stays in the CORE: BUSY is 1 (R24; spec/44_primality_generation.md R158). -/
def State.keepRunning (s : State) (j : Job) : State := { s with run := some j }

/-- The end of a command that ran: BUSY falls (R24). -/
def State.finish (s : State) : State := { s with run := none }

end Sys2Proof.Machine
end

