-- ==== Sys2Proof/Machine/Codec.lean ====
section
/-! DEFINITION. The loads and stores of BUF: LDB, STB, LDHEX and STHEX (spec/41_fixedwidth_integer.md R90 to R93). -/

namespace Sys2Proof.Machine

/-- LDB rd, imm (R90): `len/8` big-endian bytes. -/
def execLdb (rd : Reg) (imm : Imm) (s : State) : Host.Outcome State Fault Refusal :=
  let n := regLen rd / 8
  guarded [(pastBuf imm.toNat n, .bufrange), (s.tabActive rd, .tabactive)] (.ldb rd imm) s
    (s.setX rd (beNat (s.memRead imm.toNat n)))

/-- STB rd, imm (R91): `len/8` big-endian bytes. -/
def execStb (rd : Reg) (imm : Imm) (s : State) : Host.Outcome State Fault Refusal :=
  let n := regLen rd / 8
  guarded [(pastBuf imm.toNat n, .bufrange)] (.stb rd imm) s
    (s.memWrite imm.toNat (bytesBe (s.x rd) n))

/-- What a hex string loads into a register of length `len`: `none` when it is empty or malformed, otherwise its value
and whether it was cut (R92). -/
def hexLoad (trunc : HexTrunc) (len : Nat) (string : List Byte) : Option (Nat × Bool) :=
  let maxd := len / 4
  match hexDigits string with
  | none => none
  | some [] => none
  | some digits =>
    if digits.length > maxd then some (hexValue (hexKeep trunc maxd digits), true)
    else some (hexValue digits, false)

/-- LDHEX rd, imm (R92): the string of LEN bytes at `imm`. A string that fails leaves the register unspecified. -/
def execLdhex (rd : Reg) (imm : Imm) (s : State) : Host.Outcome State Fault Refusal :=
  let n := s.len.toNat
  guarded [(pastBuf imm.toNat n, .bufrange), (s.tabActive rd, .tabactive)] (.ldhex rd imm) s
    (match hexLoad Config.hexTrunc (regLen rd) (s.memRead imm.toNat n) with
      | some (v, cut) => (s.setX rd v).setHexFlags cut false
      | none =>
        let free := s.draws.unspecified (regLen rd)
        ((s.setX rd free.1).setDraws free.2).setHexFlags false true)

/-- STHEX rd, imm (R93): exactly `len/4` upper-case characters; LEN is not changed. -/
def execSthex (rd : Reg) (imm : Imm) (s : State) : Host.Outcome State Fault Refusal :=
  let n := regLen rd / 4
  guarded [(pastBuf imm.toNat n, .bufrange)] (.sthex rd imm) s
    (s.memWrite imm.toNat (hexString (s.x rd) n))

end Sys2Proof.Machine
end

