-- ==== Sys2Proof/Machine/Integer.lean ====
section
/-! DEFINITION. The FixedWidthInteger commands: ADD, SUB, CMP, SHL, SHR, GETBIT, SETBIT, CLRBIT, COPY, MULHALF and RAND
(spec/41_fixedwidth_integer.md). -/

namespace Sys2Proof.Machine

/-- ADD rd, ra (R81): the block chain with carry, its carry-out in CF. -/
def execAdd (rd ra : Reg) (s : State) : Host.Outcome State Fault Refusal :=
  let sum := addChain (blockWidths (regLen rd)) (s.blocks rd) (s.blocks ra) 0
  guarded [(regLen rd != regLen ra, .width), (s.tabActive rd, .tabactive)] (.add rd ra) s
    ((s.setX rd (ofBlocks sum.1)).setCf (sum.2 != 0))

/-- SUB rd, ra (R82): the block chain with the marker bit; no flag. -/
def execSub (rd ra : Reg) (s : State) : Host.Outcome State Fault Refusal :=
  guarded [(regLen rd != regLen ra, .width), (s.tabActive rd, .tabactive)] (.sub rd ra) s
    (s.setX rd (ofBlocks (subChain (blockWidths (regLen rd)) (s.blocks rd) (s.blocks ra) 0)))

/-- CMP ra, rb (R83): registers of any lengths; no fault. -/
def execCmp (ra rb : Reg) (s : State) : Host.Outcome State Fault Refusal :=
  guarded [] (.cmp ra rb) s (s.setCmpr (compareBlocks (s.blocks ra) (s.blocks rb)))

/-- The value of a register of length `len` shifted left by `n` bits (R84). -/
def shiftLeft (len v n : Nat) : Nat := if n ≥ len then 0 else (v <<< n) % 2 ^ len

/-- SHL rd, imm (R84). -/
def execShl (rd : Reg) (imm : Imm) (s : State) : Host.Outcome State Fault Refusal :=
  guarded [(s.tabActive rd, .tabactive)] (.shl rd imm) s
    (s.setX rd (shiftLeft (regLen rd) (s.x rd) imm.toNat))

/-- The value of a register of length `len` shifted right by `n` bits (R85). -/
def shiftRight (len v n : Nat) : Nat := if n ≥ len then 0 else v >>> n

/-- SHR rd, imm (R85). -/
def execShr (rd : Reg) (imm : Imm) (s : State) : Host.Outcome State Fault Refusal :=
  guarded [(s.tabActive rd, .tabactive)] (.shr rd imm) s
    (s.setX rd (shiftRight (regLen rd) (s.x rd) imm.toNat))

/-- A bit position is outside the block buffer of a register of length `len` (R86 to R88). -/
def outsideBlocks (len pos : Nat) : Bool := decide (pos ≥ Config.blockBits * blockCount len)

/-- Bit `pos mod 30` of block `pos div 30` (R86). -/
def bitOfBlocks (blocks : List Nat) (pos : Nat) : Bool :=
  (blocks.getD (pos / Config.blockBits) 0).testBit (pos % Config.blockBits)

/-- GETBIT rd, imm (R86): the bit goes to TF. -/
def execGetbit (rd : Reg) (imm : Imm) (s : State) : Host.Outcome State Fault Refusal :=
  guarded [(outsideBlocks (regLen rd) imm.toNat, .range)] (.getbit rd imm) s
    (s.setTf (bitOfBlocks (s.blocks rd) imm.toNat))

/-- One bit of the block buffer set, the last block masked again (R87). -/
def setBitBlocks (len : Nat) (blocks : List Nat) (pos : Nat) : List Nat :=
  maskLast len (changeBlock (· ||| 2 ^ (pos % Config.blockBits)) (pos / Config.blockBits) blocks)

/-- SETBIT rd, imm (R87). -/
def execSetbit (rd : Reg) (imm : Imm) (s : State) : Host.Outcome State Fault Refusal :=
  guarded [(outsideBlocks (regLen rd) imm.toNat, .range), (s.tabActive rd, .tabactive)] (.setbit rd imm) s
    (s.setX rd (ofBlocks (setBitBlocks (regLen rd) (s.blocks rd) imm.toNat)))

/-- A block with one bit cleared: `b & ~2^k` (R88). -/
def clearBitOf (k b : Nat) : Nat := b ^^^ (b &&& 2 ^ k)

/-- One bit of the block buffer cleared, the last block masked again (R88). -/
def clearBitBlocks (len : Nat) (blocks : List Nat) (pos : Nat) : List Nat :=
  maskLast len (changeBlock (clearBitOf (pos % Config.blockBits)) (pos / Config.blockBits) blocks)

/-- CLRBIT rd, imm (R88). -/
def execClrbit (rd : Reg) (imm : Imm) (s : State) : Host.Outcome State Fault Refusal :=
  guarded [(outsideBlocks (regLen rd) imm.toNat, .range), (s.tabActive rd, .tabactive)] (.clrbit rd imm) s
    (s.setX rd (ofBlocks (clearBitBlocks (regLen rd) (s.blocks rd) imm.toNat)))

/-- The overlapping low blocks of `src` over `dst`, the last block of the destination masked (R89). -/
def copyBlocks (len : Nat) (dst src : List Nat) : List Nat :=
  let n := min dst.length src.length
  maskLast len (src.take n ++ dst.drop n)

/-- COPY rd, ra (R89): blocks of a longer destination above the overlap are kept. -/
def execCopy (rd ra : Reg) (s : State) : Host.Outcome State Fault Refusal :=
  guarded [(s.tabActive rd, .tabactive)] (.copy rd ra) s
    (s.setX rd (ofBlocks (copyBlocks (regLen rd) (s.blocks rd) (s.blocks ra))))

/-- A factor is not of half length for a product of length `len` (R94). -/
def overHalf (len v : Nat) : Bool := decide (v ≥ 2 ^ (len / 2))

/-- MULHALF rd, ra, rb (R94): the plain product of two half-length values. -/
def execMulhalf (rd ra rb : Reg) (s : State) : Host.Outcome State Fault Refusal :=
  guarded
    [(overHalf (regLen rd) (s.x ra) || overHalf (regLen rd) (s.x rb), .range), (s.tabActive rd, .tabactive)]
    (.mulhalf rd ra rb) s
    (s.setX rd (s.x ra * s.x rb))

/-- RAND rd (R95): a register filled from the random-word collaborator. -/
def execRand (rd : Reg) (s : State) : Host.Outcome State Fault Refusal :=
  let filled := randFill (regLen rd) s.draws
  guarded [(s.tabActive rd, .tabactive)] (.rand rd) s ((s.setX rd filled.1).setDraws filled.2)

end Sys2Proof.Machine
end

