-- ==== Sys2Proof/Machine/Modular.lean ====
section
/-! DEFINITION. The ModularEngine commands TABINIT, TABSHUT, MOD and MULMONT (spec/42_modular_engine.md), and EXP of the
ExponentiationEngine (spec/43_exponentiation.md), with the table reduction, the Montgomery loop and the windowed
exponentiation that the later engines use too. -/

namespace Sys2Proof.Machine

/-! ## The table life cycle -/

/-- TABINIT rd (R120). -/
def execTabinit (rd : Reg) (s : State) : Host.Outcome State Fault Refusal :=
  guarded [(!isSingle rd, .width), (s.tabActive rd, .tabactive), (s.x rd == 0, .zeromod)] (.tabinit rd) s
    (s.openTab rd)

/-- TABSHUT rd (R121): the key tables are closed by KEYFIN only. -/
def execTabshut (rd : Reg) (s : State) : Host.Outcome State Fault Refusal :=
  guarded
    [((rd == regKN || rd == regKP || rd == regKQ) && s.pstate == .keysGenerated, .pstate),
      (!isSingle rd, .width), (!s.tabActive rd, .notable)]
    (.tabshut rd) s
    (s.closeTab rd)

/-! ## Reduction by the table -/

/-- `entry[j]` of a table (R17). -/
def Table.entry (t : Table) (j : Nat) : Nat := (t.entries.getD j 0).toNat

/-- The scan of R122 over the top `n` bit positions above the table's `msb`, from the highest one down: every set bit of
`v` is cleared and its entry added to the accumulator. -/
def Table.scan (t : Table) : Nat → Nat → Nat → Nat × Nat
  | 0, v, acc => (v, acc)
  | n + 1, v, acc =>
    if v.testBit (t.msb + (n + 1)) then t.scan n (v - 2 ^ (t.msb + (n + 1))) (acc + t.entry (n + 1))
    else t.scan n v acc

/-- The table-driven reduction of `v` modulo `m` (R122). The final `while acc >= M: acc <- acc - M` leaves the remainder of
the accumulator (DEDUCED: log entry 17). -/
def Table.reduce (t : Table) (m v : Nat) : Nat :=
  let scanned := t.scan (msbOf v - t.msb) v 0
  (scanned.2 + scanned.1) % m

/-- The bit length of `v` exceeds `2*msb(m) + 1`: the reduction precondition fails (R122). -/
def Table.tooLong (t : Table) (v : Nat) : Bool := decide (v > 0) && decide (msbOf v > 2 * t.msb)

/-- MOD rd, ra (R122). -/
def execMod (rd ra : Reg) (s : State) : Host.Outcome State Fault Refusal :=
  guarded
    [(!isSingle ra, .width), (!s.tabActive ra, .notable), (s.tabActive rd, .tabactive),
      ((s.tab ra).tooLong (s.x rd), .reduce)]
    (.mod rd ra) s
    (s.setX rd ((s.tab ra).reduce (s.x ra) (s.x rd)))

/-! ## Montgomery multiplication -/

/-- The accumulator of the Montgomery loop: `A`, 1024 bits, and the carry counter `hi` (R124). -/
structure MontAcc where
  a : Nat
  hi : Nat
  deriving DecidableEq, Repr

/-- A conditional addition into the accumulator, its carry-out counted into `hi` (R124). -/
def MontAcc.addIf (c : Bool) (v : Nat) (acc : MontAcc) : MontAcc :=
  if c then ⟨(acc.a + v) % 2 ^ 1024, acc.hi + (acc.a + v) / 2 ^ 1024⟩ else acc

/-- One bit to the right, the low bit of `hi` into the top bit of `A` (R124). -/
def MontAcc.shift (acc : MontAcc) : MontAcc :=
  ⟨acc.a >>> 1 ||| (acc.hi % 2) <<< 1023, acc.hi >>> 1⟩

/-- The decision bit `u = (A.bit(0) + xi*y.bit(0)) mod 2` (R124). -/
def montU (xi : Bool) (y : Nat) (acc : MontAcc) : Bool :=
  (acc.a % 2 + xi.toNat * (y % 2)) % 2 == 1

/-- One iteration of the loop for bit `i` of `x` (R124). -/
def montStep (x y m i : Nat) (acc : MontAcc) : MontAcc :=
  let xi := x.testBit i
  let u := montU xi y acc
  ((acc.addIf xi y).addIf u m).shift

/-- `n` iterations from bit `i` up (R124). -/
def montLoop (x y m : Nat) : Nat → Nat → MontAcc → MontAcc
  | 0, _, acc => acc
  | n + 1, i, acc =>
    let next := montStep x y m i acc
    evalFirst next.a fun a => evalFirst next.hi fun hi => montLoop x y m n (i + 1) ⟨a, hi⟩

/-- `T` after the loop over bits `0 .. t` and the one subtraction (R124). -/
def montT (x y m t : Nat) : Nat :=
  let acc := montLoop x y m (t + 1) 0 ⟨0, 0⟩
  let total := acc.hi * 2 ^ 1024 + acc.a
  if total ≥ m then total - m else total

/-- The value MULMONT gives for `x`, `y`, the modulus `m` and its index `t = msb(m)` (R124). -/
def mulMont (x y m t : Nat) : Nat := (montT x y m t <<< (t + 1)) % m

/-- MULMONT rd, ra, rb, rc (R124). -/
def execMulmont (rd ra rb rc : Reg) (s : State) : Host.Outcome State Fault Refusal :=
  let t := (s.tab rc).msb
  guarded
    [(!isSingle rd || !isSingle ra || !isSingle rb || !isSingle rc, .width), (!s.tabActive rc, .notable),
      (s.tabActive rd, .tabactive), (decide (montT (s.x ra) (s.x rb) (s.x rc) t ≥ 2 ^ (t + 1)), .reduce)]
    (.mulmont rd ra rb rc) s
    (s.setX rd (mulMont (s.x ra) (s.x rb) (s.x rc) t))

/-! ## Windowed exponentiation -/

/-- `p, mm(p, b), mm(mm(p, b), b), ...`, `n` of them (spec/43_exponentiation.md R140). -/
def powList (mm : Nat → Nat → Nat) (b : Nat) : Nat → Nat → List Nat
  | 0, _ => []
  | n + 1, p => p :: evalFirst (mm p b) fun p' => powList mm b n p'

/-- `pow[0] .. pow[31]` (R140). -/
def powTable (mm : Nat → Nat → Nat) (b : Nat) : List Nat := 1 :: powList mm b 31 b

/-- `acc <- mm(acc, acc)`, `n` times (R140). -/
def squareTimes (mm : Nat → Nat → Nat) : Nat → Nat → Nat
  | 0, acc => acc
  | n + 1, acc => evalFirst (mm acc acc) fun acc' => squareTimes mm n acc'

/-- The windows `n-1 .. 0` of the exponent, the most significant first (R140). -/
def expWindows (mm : Nat → Nat → Nat) (pow : List Nat) (e : Nat) : Nat → Nat → Nat
  | 0, acc => acc
  | n + 1, acc =>
    let squared := squareTimes mm Config.window acc
    let w := (e >>> (Config.window * n)) % 2 ^ Config.window
    evalFirst (if w ≠ 0 then mm squared (pow.getD w 0) else squared) fun acc' => expWindows mm pow e n acc'

/-- The value the pseudocode of EXP computes from a base, an exponent, a modulus and its table (R140). -/
def windowExp (t : Table) (base e m : Nat) : Nat :=
  let mm := fun a b => mulMont a b m t.msb
  expWindows mm (powTable mm (t.reduce m base)) e Config.numWindows 1

/-- The value EXP writes: for an even modulus it is unspecified (R140; spec/93_implementation_defined.md U4). -/
def expDraw (t : Table) (base e m : Nat) (d : Draws) : Nat × Draws :=
  if m % 2 = 0 then d.unspecified Config.lenS else (windowExp t base e m, d)

/-- EXP rd, ra, rb, rc (R140). -/
def execExp (rd ra rb rc : Reg) (s : State) : Host.Outcome State Fault Refusal :=
  let power := expDraw (s.tab rc) (s.x ra) (s.x rb) (s.x rc) s.draws
  guarded
    [(!isSingle rd || !isSingle ra || !isSingle rb || !isSingle rc, .width), (!s.tabActive rc, .notable),
      (s.tabActive rd, .tabactive), ((s.tab rc).tooLong (s.x ra), .reduce)]
    (.exp rd ra rb rc) s
    ((s.setX rd power.1).setDraws power.2)

end Sys2Proof.Machine
end

