-- ==== Sys2Proof/Machine/Primality.lean ====
section
/-! DEFINITION. The PrimalityAndGeneration commands TDIV, MRTEST, GENPRIME, GENBLUM, GENBLUMN and GCD
(spec/44_primality_generation.md). A command with an unbounded retry loop (R158) runs in one step as far as its next
retry: it completes in that step, or it stays in the CORE with BUSY = 1 and the next step goes on with the retry (DESIGN
CHOICE: log entry 2). -/

namespace Sys2Proof.Machine

/-! ## Trial division -/

/-- `TrialDiv(v)`: no small prime divides it (R150). -/
def trialDiv (v : Nat) : Bool := Config.smallPrimes.all fun p => v % p != 0

/-- TDIV rd (R150): any length, no fault. -/
def execTdiv (rd : Reg) (s : State) : Host.Outcome State Fault Refusal :=
  guarded [] (.tdiv rd) s (s.setTf (trialDiv (s.x rd)))

/-! ## Miller–Rabin -/

/-- Up to `n` squarings, watching for `N - 1` (accept) and for 1 (reject) (R151). -/
def squareUntil (t : Table) (n : Nat) : Nat → Nat → Bool
  | 0, _ => false
  | k + 1, z =>
    let z' := mulMont z z n t.msb
    if z' = n - 1 then true else if z' = 1 then false else squareUntil t n k z'

/-- One round of Miller–Rabin on `n` with a witness in `(1, n)`: accepted or not (R151). -/
def millerRabinRound (n x : Nat) (d : Draws) : Bool × Draws :=
  if Nat.gcd x n ≠ 1 then (false, d)
  else
    let t := tableOf n
    let s := v2 (n - 1)
    let power := expDraw t x ((n - 1) >>> s) n d
    (decide (power.1 = 1) || decide (power.1 = n - 1) || squareUntil t n (s - 1) power.1, power.2)

/-- How Miller–Rabin goes: an answer, or a witness out of range with this many rounds left (R151). -/
inductive Verdict where
  | prime
  | composite
  | redraw (rounds : Nat)
  deriving DecidableEq, Repr

/-- The rounds of Miller–Rabin as far as an answer or the first witness out of `(1, n)` (R151). -/
def millerRabin (n : Nat) : Nat → Draws → Verdict × Draws
  | 0, d => (.prime, d)
  | k + 1, d =>
    let drawn := randFill Config.lenS d
    let x := drawn.1 % 2 ^ bitlen n
    if 1 < x ∧ x < n then
      let round := millerRabinRound n x drawn.2
      if round.1 then millerRabin n k round.2 else (.composite, round.2)
    else (.redraw (k + 1), drawn.2)

/-- MRTEST goes on with `k` rounds left: its table is closed and TF written at the end, or a witness is redrawn (R152). -/
def resumeMrtest (rd : Reg) (k : Nat) (s : State) : State :=
  let tested := millerRabin (s.x rd) k s.draws
  match tested.1 with
  | .prime => (((s.closeTab rd).setTf true).setDraws tested.2).finish
  | .composite => (((s.closeTab rd).setTf false).setDraws tested.2).finish
  | .redraw k' => (s.setDraws tested.2).keepRunning (.mrtest rd k')

/-- MRTEST rd, imm (R152): the command opens the table itself. -/
def execMrtest (rd : Reg) (imm : Imm) (s : State) : Host.Outcome State Fault Refusal :=
  guarded [(!isSingle rd, .width), (decide (s.x rd < 3), .range), (s.tabActive rd, .tabactive)] (.mrtest rd imm) s
    (resumeMrtest rd imm.toNat (s.openTab rd))

/-! ## Prime generation -/

/-- Which candidates are drawn: GENPRIME's of full width, or the half-width ones of R154. -/
inductive PrimeKind where
  | full
  | half
  deriving DecidableEq, Repr

/-- A candidate from a draw: bits 1023 and 0 forced (R153), or cut to 512 bits with bit 511 forced (R154). -/
def candidateOf (kind : PrimeKind) (v : Nat) : Nat :=
  match kind with
  | .full => v ||| 2 ^ 1023 ||| 1
  | .half => (v % 2 ^ Config.half) ||| 2 ^ 511

/-- The tests before Miller–Rabin: the low two bits of a half-width candidate, then trial division (R153, R154). -/
def screened (kind : PrimeKind) (c : Nat) : Bool :=
  match kind with
  | .full => trialDiv c
  | .half => c % 4 == 3 && trialDiv c

/-- How the search for one prime goes: found, or a retry with the candidate still at hand, if any. -/
inductive Search where
  | found (p : Nat)
  | retry (cand : Option Candidate)
  deriving DecidableEq, Repr

/-- Miller–Rabin on a candidate (R153, R154): a witness out of range keeps the candidate, a rejection drops it. -/
def testCandidate (c : Candidate) (d : Draws) : Search × Draws :=
  let tested := millerRabin c.value c.rounds d
  match tested.1 with
  | .prime => (.found c.value, tested.2)
  | .composite => (.retry none, tested.2)
  | .redraw k => (.retry (some { value := c.value, rounds := k }), tested.2)

/-- The search for one prime as far as the next retry (R153, R154). -/
def searchPrime (kind : PrimeKind) (cand : Option Candidate) (d : Draws) : Search × Draws :=
  match cand with
  | some c => testCandidate c d
  | none =>
    let drawn := randFill Config.lenS d
    let c := candidateOf kind drawn.1
    if screened kind c then testCandidate { value := c, rounds := Config.mrGenRounds } drawn.2
    else (.retry none, drawn.2)

/-- GENPRIME goes on: `rd` is written once, at the end (R153). -/
def resumeGenprime (rd : Reg) (cand : Option Candidate) (s : State) : State :=
  let searched := searchPrime .full cand s.draws
  match searched.1 with
  | .found p => ((s.setX rd p).setDraws searched.2).finish
  | .retry c => (s.setDraws searched.2).keepRunning (.genprime rd c)

/-- GENPRIME rd (R153). -/
def execGenprime (rd : Reg) (s : State) : Host.Outcome State Fault Refusal :=
  guarded [(!isSingle rd, .width), (s.tabActive rd, .tabactive)] (.genprime rd) s (resumeGenprime rd none s)

/-- How the search for two half-width primes goes. -/
inductive PairSearch where
  | found (r q : Nat)
  | retry (first : Option Nat) (cand : Option Candidate)
  deriving DecidableEq, Repr

/-- The search for the second prime, the first one being `r` (R155). -/
def searchSecond (r : Nat) (cand : Option Candidate) (d : Draws) : PairSearch × Draws :=
  let searched := searchPrime .half cand d
  match searched.1 with
  | .found q => (.found r q, searched.2)
  | .retry c => (.retry (some r) c, searched.2)

/-- The search for two half-width primes as far as the next retry; the first is complete before a word for the second is
drawn (R155). -/
def searchPair (first : Option Nat) (cand : Option Candidate) (d : Draws) : PairSearch × Draws :=
  match first with
  | some r => searchSecond r cand d
  | none =>
    let searched := searchPrime .half cand d
    match searched.1 with
    | .found r => searchSecond r none searched.2
    | .retry c => (.retry none c, searched.2)

/-- What a command does with its two primes: GENBLUM (R155), GENBLUMN (R156), KEYGEN with its three tables and PSTATE
(spec/45_esrabin_protocol.md R181). -/
def storePrimes (dest : BlumDest) (r q : Nat) (s : State) : State :=
  match dest with
  | .genblum rd ra rb => ((s.setX ra r).setX rb q).setX rd (r * q)
  | .genblumn rd => s.setX rd (r * q)
  | .keygen =>
    let keys := ((s.setX regKP r).setX regKQ q).setX regKN (r * q)
    (((keys.openTab regKN).openTab regKP).openTab regKQ).setPstate .keysGenerated

/-- GENBLUM, GENBLUMN or KEYGEN goes on: everything is written at the end. -/
def resumeBlum (dest : BlumDest) (first : Option Nat) (cand : Option Candidate) (s : State) : State :=
  let searched := searchPair first cand s.draws
  match searched.1 with
  | .found r q => ((storePrimes dest r q s).setDraws searched.2).finish
  | .retry f c => (s.setDraws searched.2).keepRunning (.blum dest f c)

/-- GENBLUM rd, ra, rb (R155). -/
def execGenblum (rd ra rb : Reg) (s : State) : Host.Outcome State Fault Refusal :=
  guarded
    [(!isSingle rd || !isSingle ra || !isSingle rb, .width),
      (s.tabActive rd || s.tabActive ra || s.tabActive rb, .tabactive)]
    (.genblum rd ra rb) s
    (resumeBlum (.genblum rd ra rb) none none s)

/-- GENBLUMN rd (R156). -/
def execGenblumn (rd : Reg) (s : State) : Host.Outcome State Fault Refusal :=
  guarded [(!isSingle rd, .width), (s.tabActive rd, .tabactive)] (.genblumn rd) s
    (resumeBlum (.genblumn rd) none none s)

/-! ## Greatest common divisor -/

/-- The loop of R157: factors of two are stripped from each operand and the smaller is subtracted from the larger until
one is 0. The sum of the operands falls in every turn, so `fuel = u + v` turns are enough (DEDUCED: log entry 18). -/
def steinLoop : Nat → Nat → Nat → Nat
  | 0, u, v => u + v
  | fuel + 1, u, v =>
    if u = 0 ∨ v = 0 then u + v
    else
      let u' := u >>> v2 u
      let v' := v >>> v2 v
      if u' ≥ v' then steinLoop fuel (u' - v') v' else steinLoop fuel u' (v' - u')

/-- The binary greatest common divisor, the zero cases first (R157). -/
def steinGcd (u v : Nat) : Nat :=
  if u = 0 then v
  else if v = 0 then u
  else
    let sh := min (v2 u) (v2 v)
    steinLoop (u + v) (u >>> sh) (v >>> sh) <<< sh

/-- GCD rd, ra, rb (R157). -/
def execGcd (rd ra rb : Reg) (s : State) : Host.Outcome State Fault Refusal :=
  guarded [(regLen rd != regLen ra || regLen rd != regLen rb, .width), (s.tabActive rd, .tabactive)] (.gcd rd ra rb) s
    (s.setX rd (steinGcd (s.x ra) (s.x rb)))

end Sys2Proof.Machine
end

