-- ==== Sys2Proof/Machine/Protocol.lean ====
section
/-! DEFINITION. The ESRabinProtocol commands KEYGEN, SIGN, VERIFY and KEYFIN (spec/45_esrabin_protocol.md). -/

namespace Sys2Proof.Machine

/-- KEYGEN (R181): from Uninitialized or Finalized. -/
def execKeygen (s : State) : Host.Outcome State Fault Refusal :=
  guarded
    [(s.pstate != .uninitialized && s.pstate != .finalized, .pstate),
      (s.tabActive regKN || s.tabActive regKP || s.tabActive regKQ, .tabactive)]
    .keygen s
    (resumeBlum .keygen none none s)

/-- `HashInt(addr, R)`: the hash of the LEN message bytes followed by the 128 bytes of `R`, as a number (R182). -/
def hashInt (s : State) (addr : Imm) (r : Nat) : Nat :=
  (Config.hash (s.memRead addr.toNat s.len.toNat ++ bytesBe r 128)).toNat

/-- The tests of Euler's criterion for both primes, on `h` (R183). -/
def eulerTests (tp tq : Table) (p q h : Nat) (d : Draws) : Bool × Draws :=
  let forP := expDraw tp h ((p - 1) >>> 1) p d
  let forQ := expDraw tq h ((q - 1) >>> 1) q forP.2
  (decide (forP.1 = 1) && decide (forQ.1 = 1), forQ.2)

/-- Garner's line: `Vp + p * (((Vq - Vp) * pinv) mod q)` over the integers (R183). -/
def garner (p q vp vq pinv : Nat) : Nat :=
  vp + p * (((vq : Int) - (vp : Int)) * (pinv : Int) % (q : Int)).toNat

/-- The square root of `h` modulo `p*q` from the roots modulo `p` and `q` (R183). -/
def signatureRoot (tp tq : Table) (p q h : Nat) (d : Draws) : Nat × Draws :=
  let vp := expDraw tp h ((p + 1) >>> 2) p d
  let vq := expDraw tq h ((q + 1) >>> 2) q vp.2
  let pinv := expDraw tq p (q - 2) q vq.2
  (garner p q vp.1 vq.1 pinv.1, pinv.2)

/-- SIGN draws a randomizer and, if the hash is a residue for both primes, writes the signature and ends; otherwise it
keeps running in state Signing (R183). -/
def resumeSign (addr : Imm) (s : State) : State :=
  let p := s.x regKP
  let q := s.x regKQ
  let drawn := randFill Config.lenS s.draws
  let h := hashInt s addr drawn.1
  let residue := eulerTests (s.tab regKP) (s.tab regKQ) p q h drawn.2
  if residue.1 then
    let root := signatureRoot (s.tab regKP) (s.tab regKQ) p q h residue.2
    ((((s.setX regSR drawn.1).setX regSB root.1).setPstate .keysGenerated).setDraws root.2).finish
  else ((s.setPstate .signing).setDraws residue.2).keepRunning (.sign addr)

/-- SIGN imm (R183): only in KeysGenerated. -/
def execSign (imm : Imm) (s : State) : Host.Outcome State Fault Refusal :=
  guarded
    [(s.pstate != .keysGenerated, .pstate), (pastBuf imm.toNat s.len.toNat, .bufrange),
      (s.tabActive regSR || s.tabActive regSB, .tabactive)]
    (.sign imm) s
    (resumeSign imm s)

/-- The answer of VERIFY for a modulus `n` with index `t`, a signature value `b` and a hash `h` (R184). -/
def accepts (n t b h : Nat) : Bool := decide (b < n) && decide (mulMont b b n t = h)

/-- VERIFY imm (R184): only in KeysGenerated; a bad signature is an answer, not a fault. PSTATE is 3 inside the command
only, which is one step here (spec/10_state.md R24), and 1 after it. -/
def execVerify (imm : Imm) (s : State) : Host.Outcome State Fault Refusal :=
  guarded
    [(s.pstate != .keysGenerated, .pstate), (pastBuf imm.toNat s.len.toNat, .bufrange)]
    (.verify imm) s
    ((s.setTf (accepts (s.x regKN) (s.tab regKN).msb (s.x regSB) (hashInt s imm (s.x regSR)))).setPstate .keysGenerated)

/-- KEYFIN (R185): closes the key tables; no register changes. -/
def execKeyfin (s : State) : Host.Outcome State Fault Refusal :=
  guarded [(s.pstate != .keysGenerated, .pstate)] .keyfin s
    ((((s.closeTab regKN).closeTab regKP).closeTab regKQ).setPstate .finalized)

end Sys2Proof.Machine
end

