-- ==== Sys2Proof/Machine/Dispatch.lean ====
section
/-! DEFINITION. One arm for each command: its meaning (spec/30_encoding.md R64). -/

namespace Sys2Proof.Machine

def exec (i : Instr) (s : State) : Host.Outcome State Fault Refusal :=
  match i with
  | .add rd ra => Sys2Proof.Machine.execAdd rd ra s
  | .sub rd ra => Sys2Proof.Machine.execSub rd ra s
  | .cmp ra rb => Sys2Proof.Machine.execCmp ra rb s
  | .shl rd imm => Sys2Proof.Machine.execShl rd imm s
  | .shr rd imm => Sys2Proof.Machine.execShr rd imm s
  | .getbit rd imm => Sys2Proof.Machine.execGetbit rd imm s
  | .setbit rd imm => Sys2Proof.Machine.execSetbit rd imm s
  | .clrbit rd imm => Sys2Proof.Machine.execClrbit rd imm s
  | .copy rd ra => Sys2Proof.Machine.execCopy rd ra s
  | .ldb rd imm => Sys2Proof.Machine.execLdb rd imm s
  | .stb rd imm => Sys2Proof.Machine.execStb rd imm s
  | .ldhex rd imm => Sys2Proof.Machine.execLdhex rd imm s
  | .sthex rd imm => Sys2Proof.Machine.execSthex rd imm s
  | .mulhalf rd ra rb => Sys2Proof.Machine.execMulhalf rd ra rb s
  | .rand rd => Sys2Proof.Machine.execRand rd s
  | .tabinit rd => Sys2Proof.Machine.execTabinit rd s
  | .tabshut rd => Sys2Proof.Machine.execTabshut rd s
  | .mod rd ra => Sys2Proof.Machine.execMod rd ra s
  | .mulmont rd ra rb rc => Sys2Proof.Machine.execMulmont rd ra rb rc s
  | .exp rd ra rb rc => Sys2Proof.Machine.execExp rd ra rb rc s
  | .tdiv rd => Sys2Proof.Machine.execTdiv rd s
  | .mrtest rd imm => Sys2Proof.Machine.execMrtest rd imm s
  | .genprime rd => Sys2Proof.Machine.execGenprime rd s
  | .genblum rd ra rb => Sys2Proof.Machine.execGenblum rd ra rb s
  | .genblumn rd => Sys2Proof.Machine.execGenblumn rd s
  | .gcd rd ra rb => Sys2Proof.Machine.execGcd rd ra rb s
  | .keygen => Sys2Proof.Machine.execKeygen s
  | .sign imm => Sys2Proof.Machine.execSign imm s
  | .verify imm => Sys2Proof.Machine.execVerify imm s
  | .keyfin => Sys2Proof.Machine.execKeyfin s

end Sys2Proof.Machine
end

