-- ==== Sys2Proof/Machine/Sequencer.lean ====
section
/-! DEFINITION. The sequencer between two host actions: a command that has come to a retry goes on with it
(spec/10_state.md R24; spec/44_primality_generation.md R158; spec/70_reset_and_hazards.md R236). -/

namespace Sys2Proof.Machine

/-- The running command goes on to its end or to its next retry. -/
def resume (j : Job) (s : State) : State :=
  match j with
  | .mrtest rd k => resumeMrtest rd k s
  | .genprime rd c => resumeGenprime rd c s
  | .blum dest f c => resumeBlum dest f c s
  | .sign addr => resumeSign addr s

/-- The CORE left alone: it works on the command it runs, or stays idle. -/
def coreWork (s : State) : State :=
  match s.run with
  | some j => resume j s
  | none => s

end Sys2Proof.Machine
end

