-- ==== Sys2Proof/Machine/HostPort.lean ====
section
/-! DEFINITION. The host port: the address map, the reads and the writes (spec/10_state.md R19, R24, R26, R29;
spec/20_memory.md R43, R45, R47). -/

namespace Sys2Proof.Machine

/-- What a word address of the host port is (R19, R47). -/
inductive PortAddr where
  | cmd
  | status
  | len
  | fcause
  | fcmd
  | ctrl
  | hashid
  | tabact
  | window (k : Nat)
  | reserved
  deriving DecidableEq, Repr

/-- The host address map: eight registers, the reserved range, the BUF window, nothing above (R47). -/
def portAddr (a : Nat) : PortAddr :=
  if 0x400 ≤ a ∧ a < 0x400 + Config.bufSize / 4 then .window (a - 0x400)
  else
    match a with
    | 0x000 => .cmd
    | 0x001 => .status
    | 0x002 => .len
    | 0x003 => .fcause
    | 0x004 => .fcmd
    | 0x005 => .ctrl
    | 0x006 => .hashid
    | 0x007 => .tabact
    | _ => .reserved

/-- Word `k` of the BUF window, byte `4k+b` in bits `8b+7:8b` (R26, R43). -/
def State.windowWord (s : State) (k : Nat) : Word :=
  BitVec.ofNat 32
    ((s.byte (4 * k)).toNat + 2 ^ 8 * (s.byte (4 * k + 1)).toNat + 2 ^ 16 * (s.byte (4 * k + 2)).toNat
      + 2 ^ 24 * (s.byte (4 * k + 3)).toNat)

/-- The four bytes of a host word, bits 7:0 first (R43). -/
def wordBytes (v : Word) : List Byte :=
  [wordField v 0 8, wordField v 8 8, wordField v 16 8, wordField v 24 8]

/-- What `HostRead` answers while no command runs: CMD, CTRL and every other address read 0 (R19, R26, R47). -/
def readWord (a : Nat) (s : State) : Word :=
  match portAddr a with
  | .cmd => 0
  | .status => s.statusWord
  | .len => s.lenWord
  | .fcause => s.fcauseWord
  | .fcmd => s.fcmd
  | .ctrl => 0
  | .hashid => Config.hashId
  | .tabact => s.tabactWord
  | .window k => s.windowWord k
  | .reserved => 0

/-- `HostRead(a)` (R26). While BUSY a STATUS read shows BUSY and PSTATE and leaves the other bits unspecified, and every
other read answers an unspecified word (R47; spec/70_reset_and_hazards.md R237 item 4; DEDUCED: log entry 19). -/
def hostRead (a : Nat) (s : State) : State :=
  if s.busy then
    let free := s.draws.unspecified 32
    let any : Word := BitVec.ofNat 32 free.1
    let answer := if portAddr a = .status then busyStatusWord s.pstate any else any
    { s with hostData := answer, draws := free.2 }
  else { s with hostData := readWord a s }

/-- A word written to CMD while the CORE is idle: the command runs, or the word is illegal (R24;
spec/30_encoding.md R65). -/
def startCommand (w : Word) (s : State) : Host.Outcome State Fault Refusal :=
  match decode w with
  | .ok i => exec i s
  | .error _ => .next (takeFault .illcmd w s)

/-- `HostWrite(a, v)` (R19, R24, R26, R47): CTRL works at any time; while BUSY or FAULT every other write is ignored. -/
def hostWrite (a : Nat) (v : Word) (s : State) : Host.Outcome State Fault Refusal :=
  if portAddr a = .ctrl then (if v.getLsbD 0 then .next (resetCore s) else .next s)
  else if s.busy || s.fault then .next s
  else
    match portAddr a with
    | .cmd => startCommand v s
    | .len => .next { s with len := wordField v 0 16 }
    | .window k => .next (s.memWrite (4 * k) (wordBytes v))
    | .status => .next s
    | .fcause => .next s
    | .fcmd => .next s
    | .ctrl => .next s
    | .hashid => .next s
    | .tabact => .next s
    | .reserved => .next s

/-- One entry of the agenda. -/
def hostAct (h : HostAction) (s : State) : Host.Outcome State Fault Refusal :=
  match h with
  | .wait => .next (coreWork s)
  | .read a => .next (hostRead a s)
  | .write a v => hostWrite a v s
  | .reset => .next (resetCore s)

/-- The first entry of the agenda happens; when there is none, the host waits. -/
def takeTurn (s : State) : Host.Outcome State Fault Refusal :=
  match s.agenda with
  | [] => hostAct .wait s
  | h :: rest => hostAct h { s with agenda := rest }

/-- A machine that accepts a command, whose next turn is the host's write of `w` to CMD. -/
def offerCommand (w : Word) (s : State) : State :=
  { s with run := none, fault := false, agenda := .write 0x000 w :: s.agenda }

end Sys2Proof.Machine
end

