-- ==== Sys2Proof/Machine/Step.lean ====
section
/-! DEFINITION. One step of the machine, and the placing of a command where the next step takes it
(spec/10_state.md R16, R24). -/

namespace Sys2Proof.Machine

/-- One step: one turn of the host port, in which the CORE answers it or works on. -/
def step (s : State) : Host.Outcome State Fault Refusal := takeTurn s

/-- There is no instruction memory (R16): a command reaches the CORE as the host's write to CMD (R24), so this is the next
action of the host, to a CORE that runs nothing and has recorded no fault (DESIGN CHOICE: log entry 5). -/
def State.withFetchWord (s : State) (nbits w : Nat) : State :=
  offerCommand (BitVec.ofNat 32 (w % 2 ^ nbits)) s

end Sys2Proof.Machine
end

