-- ==== Sys2Proof/Safety.lean ====
section
/-! DEFINITION. The terms in which claims are stated: what a command leaves unchanged, and the invariants of the machine
(spec/10_state.md R12, R14, R18, R21, R23; spec/45_esrabin_protocol.md R180). -/

namespace Sys2Proof.Machine

/-! ## What a command leaves unchanged -/

/-- The flags of STATUS that commands write (R21). -/
structure Flags where
  cf : Bool
  cmpr : Cmpr
  tf : Bool
  warn : Bool
  cerr : Bool
  pstate : PState
  deriving DecidableEq, Repr

/-- The flags of a state. -/
def State.flags (s : State) : Flags :=
  { cf := s.cf, cmpr := s.cmpr, tf := s.tf, warn := s.warn, cerr := s.cerr, pstate := s.pstate }

/-- Every register but the listed ones holds what it held. -/
def KeepsRegs (s t : State) (written : List Reg) : Prop := ∀ r, r ∉ written → t.x r = s.x r

/-- Every reduction table but those of the listed registers is as it was. -/
def KeepsTabs (s t : State) (written : List Reg) : Prop := ∀ r, r ∉ written → t.tab r = s.tab r

/-- Every byte of BUF outside `lo .. lo+n-1` reads as before; every byte, for `n = 0`. -/
def KeepsBytes (s t : State) (lo n : Nat) : Prop := ∀ a, ¬ (lo ≤ a ∧ a < lo + n) → t.byte a = s.byte a

/-- What no completed command writes: LEN, the fault record, BUSY, and what belongs to the host. -/
def KeepsControl (s t : State) : Prop :=
  t.len = s.len ∧ t.fault = s.fault ∧ t.fcause = s.fcause ∧ t.fcmd = s.fcmd ∧ t.run = s.run ∧
    t.agenda = s.agenda ∧ t.hostData = s.hostData ∧ t.bufEpoch = s.bufEpoch

/-- KeepsControl but for BUSY, which a command with a retry loop holds at 1 until it ends. -/
def KeepsControlButBusy (s t : State) : Prop :=
  t.len = s.len ∧ t.fault = s.fault ∧ t.fcause = s.fcause ∧ t.fcmd = s.fcmd ∧
    t.agenda = s.agenda ∧ t.hostData = s.hostData ∧ t.bufEpoch = s.bufEpoch

/-- No outside answer was used up. -/
def KeepsDraws (s t : State) : Prop := t.draws = s.draws

/-- Only the listed registers, and the flags, may have changed. -/
def OnlyRegs (s t : State) (written : List Reg) : Prop :=
  KeepsRegs s t written ∧ KeepsTabs s t [] ∧ KeepsBytes s t 0 0 ∧ KeepsDraws s t ∧ KeepsControl s t

/-- Two states agree on everything but the five flags CF, CMPR, TF, WARN and CERR. -/
def AgreeButFlags (s t : State) : Prop :=
  { s with cf := t.cf, cmpr := t.cmpr, tf := t.tf, warn := t.warn, cerr := t.cerr } = t

/-- A flag that a command finds as `f` and leaves as `g` in one run, and as `f'` and `g'` in another, is written alike: it
is left with one value in both runs, or unchanged in both. -/
def WrittenAlike {α : Type} (f f' g g' : α) : Prop := g = g' ∨ (g = f ∧ g' = f')

/-- Each of the flags CF, CMPR, TF, WARN and CERR is written alike by the run from `s` to `t` and the run from `s'` to
`t'`, so that none of the five decides what another, or itself, becomes. -/
def FlagsWrittenAlike (s s' t t' : State) : Prop :=
  WrittenAlike s.cf s'.cf t.cf t'.cf ∧ WrittenAlike s.cmpr s'.cmpr t.cmpr t'.cmpr ∧ WrittenAlike s.tf s'.tf t.tf t'.tf ∧
    WrittenAlike s.warn s'.warn t.warn t'.warn ∧ WrittenAlike s.cerr s'.cerr t.cerr t'.cerr

/-- The values of R31 after reset: registers, tables, STATUS, LEN, FCAUSE, FCMD, TABACT and HASHID, nothing running, and
every byte of BUF unspecified. -/
def AtReset (t : State) : Prop :=
  (∀ r, t.x r = 0) ∧ (∀ r, t.tabActive r = false) ∧ t.statusWord = 0 ∧ t.run = none ∧ t.lenWord = 0 ∧
    t.fcauseWord = 0 ∧ t.fcmd = 0 ∧ t.tabactWord = 0 ∧ readWord 6 t = Config.hashId ∧
    ∀ a, t.byte a = Config.freeByte t.bufEpoch a

/-- The byte is the ASCII code of the hex digit of value `v`: `0-9`, `A-F` or `a-f`
(spec/41_fixedwidth_integer.md R92). -/
def IsHexDigit (b : Byte) (v : Nat) : Prop :=
  (v < 10 ∧ b.toNat = 0x30 + v) ∨ (10 ≤ v ∧ v < 16 ∧ (b.toNat = 0x37 + v ∨ b.toNat = 0x57 + v))

/-! ## The Montgomery loop as one number -/

/-- The number `N = hi*2^1024 + A` of the loop of spec/42_modular_engine.md R124 after its first `n` turns: in the turn of
bit `i` the next `N` is `(N + xi*y + u*m) div 2` with `xi` bit `i` of `x` and `u` the parity of `N + xi*y`, which is that of
`A.bit(0) + xi*y.bit(0)`. -/
def montNumber (x y m : Nat) : Nat → Nat
  | 0 => 0
  | i + 1 =>
    let sum := montNumber x y m i + (x.testBit i).toNat * y
    (sum + sum % 2 * m) / 2

/-- `T` of R124 for a modulus `m` with `msb(m) = t`: the number after the turns of the bits `0 .. t`, less `m` once if it is
`m` or more. -/
def montResidue (x y m t : Nat) : Nat :=
  if m ≤ montNumber x y m (t + 1) then montNumber x y m (t + 1) - m else montNumber x y m (t + 1)

/-! ## The word stream, witnesses and keys -/

/-- Word `j` of what is left of the random-word stream (R27). -/
def Draws.nth (d : Draws) (j : Nat) : Word :=
  match d.queue[j]? with
  | some w => w
  | none => Config.rngWord (d.rngPos + j)

/-- The witness that the next 35 words of the stream give for `n` (spec/44_primality_generation.md R151). -/
def witnessOf (n : Nat) (d : Draws) : Nat := (randFill Config.lenS d).1 % 2 ^ bitlen n

/-- The words left after one draw of a single-width value. -/
def Draws.afterOneDraw (d : Draws) : Draws := (randFill Config.lenS d).2

/-- `n` passes one Miller–Rabin round with the witness `x`: with `n - 1 = 2^s * d`, `d` odd, `x` is prime to `n` and
`x^d` is 1 or one of `x^d, x^2d, ..., x^(2^(s-1) d)` is `n - 1`, modulo `n` (spec/44_primality_generation.md R151). -/
def StrongProbablePrime (n x : Nat) : Prop :=
  Nat.gcd x n = 1 ∧
    ∃ s d, n - 1 = 2 ^ s * d ∧ d % 2 = 1 ∧ (x ^ d % n = 1 ∨ ∃ r, r < s ∧ x ^ (2 ^ r * d) % n = n - 1)

/-- `n` passes `k` Miller–Rabin rounds with the witnesses that the stream gives from `d` on, those out of `(1, n)` redrawn,
and `d'` is left of the stream (spec/44_primality_generation.md R151). -/
inductive PassedRounds (n : Nat) : Nat → Draws → Draws → Prop
  /-- No round is left. -/
  | done (d : Draws) : PassedRounds n 0 d d
  /-- The next witness is out of range. -/
  | redraw {k : Nat} {d d' : Draws} (out : ¬ (1 < witnessOf n d ∧ witnessOf n d < n))
      (later : PassedRounds n (k + 1) d.afterOneDraw d') : PassedRounds n (k + 1) d d'
  /-- The next witness is in range and `n` passes the round. -/
  | round {k : Nat} {d d' : Draws} (low : 1 < witnessOf n d) (high : witnessOf n d < n)
      (strong : StrongProbablePrime n (witnessOf n d)) (later : PassedRounds n k d.afterOneDraw d') :
      PassedRounds n (k + 1) d d'

/-- `v` is a candidate drawn from `d` that passes the tests before Miller–Rabin and three rounds with the witnesses drawn
after it; `d'` is left (spec/44_primality_generation.md R153, R154). -/
def Generated (kind : PrimeKind) (v : Nat) (d d' : Draws) : Prop :=
  v = candidateOf kind (randFill Config.lenS d).1 ∧ screened kind v = true ∧
    PassedRounds v Config.mrGenRounds d.afterOneDraw d'

/-- `v` is generated, after some draws from `d` that led to nothing; `d'` is left. -/
def GeneratedFrom (kind : PrimeKind) (v : Nat) (d d' : Draws) : Prop :=
  ∃ m : Nat, Generated kind v (Draws.afterOneDraw^[m] d) d'

/-- `HashInt(addr, R)` as a formula: the message bytes followed by the 128 bytes of `R`
(spec/45_esrabin_protocol.md R182). -/
def messageHash (s : State) (addr r : Nat) : Nat :=
  (Config.hash (s.memRead addr s.len.toNat ++ bytesBe r 128)).toNat

/-- Euler's criterion holds for `h` modulo both primes (spec/45_esrabin_protocol.md R183). -/
def ResidueForBoth (p q h : Nat) : Prop := h ^ ((p - 1) / 2) % p = 1 ∧ h ^ ((q - 1) / 2) % q = 1

/-- The signature value of R183 for primes `p`, `q` and a hash `h`, by the formula of Garner's algorithm. -/
def garnerRoot (p q h : Nat) : Nat :=
  garner p q (h ^ ((p + 1) / 4) % p) (h ^ ((q + 1) / 4) % q) (p ^ (q - 2) % q)

/-! ## Invariants -/

/-- The table invariant (R18): an active table belongs to a register that is not 0 and holds that value's powers of two. -/
def TableInv (s : State) (r : Reg) : Prop :=
  s.tabActive r = true →
    0 < s.x r ∧ (s.tab r).msb = msbOf (s.x r) ∧ (s.tab r).entries.length = msbOf (s.x r) + 1 ∧
      ∀ j, j ≤ msbOf (s.x r) → (s.tab r).entry j = 2 ^ (msbOf (s.x r) + j) % s.x r

/-- The shape of the primes GENPRIME finds (spec/44_primality_generation.md R153). -/
def FullShape (c : Nat) : Prop := 2 ^ 1023 ≤ c ∧ c < 2 ^ 1024 ∧ c % 2 = 1 ∧ trialDiv c = true

/-- The shape of the half-width primes (spec/44_primality_generation.md R154). -/
def HalfShape (c : Nat) : Prop := 2 ^ 511 ≤ c ∧ c < 2 ^ 512 ∧ c % 4 = 3 ∧ trialDiv c = true

/-- The candidate at hand, if any, has passed the tests before Miller–Rabin. -/
def CandidateOk (shape : Nat → Prop) : Option Candidate → Prop
  | none => True
  | some c => shape c.value ∧ 1 ≤ c.rounds ∧ c.rounds ≤ Config.mrGenRounds

/-- The first prime of a pair, if it is found, has the shape of one. -/
def FirstOk : Option Nat → Prop
  | none => True
  | some r => HalfShape r

/-- The registers a running command will write are single width and have no active table (R15, R205). -/
def DestOk (s : State) : BlumDest → Prop
  | .genblum rd ra rb =>
    pairwiseDifferent rd ra rb = true ∧
      ∀ r, r = rd ∨ r = ra ∨ r = rb → isSingle r = true ∧ s.tabActive r = false
  | .genblumn rd => isSingle rd = true ∧ s.tabActive rd = false
  | .keygen =>
    (s.pstate = .uninitialized ∨ s.pstate = .finalized) ∧ s.tabActive regKN = false ∧ s.tabActive regKP = false ∧
      s.tabActive regKQ = false

/-- A command between two retries still meets the conditions it was started under. -/
def RunInv (s : State) : Prop :=
  match s.run with
  | none => s.pstate ≠ .signing
  | some (.mrtest rd k) =>
    isSingle rd = true ∧ 3 ≤ s.x rd ∧ s.tabActive rd = true ∧ 1 ≤ k ∧ s.pstate ≠ .signing ∧
      (s.pstate = .keysGenerated → rd ≠ regKN ∧ rd ≠ regKP ∧ rd ≠ regKQ)
  | some (.genprime rd c) =>
    isSingle rd = true ∧ s.tabActive rd = false ∧ CandidateOk FullShape c ∧ s.pstate ≠ .signing
  | some (.blum dest f c) => DestOk s dest ∧ FirstOk f ∧ CandidateOk HalfShape c ∧ s.pstate ≠ .signing
  | some (.sign a) =>
    s.pstate = .signing ∧ pastBuf a.toNat s.len.toNat = false ∧ s.tabActive regSR = false ∧ s.tabActive regSB = false

/-- The three key tables are active and the key registers hold what KEYGEN writes (R180, R181). -/
def KeysHeld (s : State) : Prop :=
  s.tabActive regKN = true ∧ s.tabActive regKP = true ∧ s.tabActive regKQ = true ∧
    HalfShape (s.x regKP) ∧ HalfShape (s.x regKQ) ∧ s.x regKN = s.x regKP * s.x regKQ

/-- Between KEYGEN and KEYFIN the keys are held (R180). -/
def KeyInv (s : State) : Prop := s.pstate = .keysGenerated ∨ s.pstate = .signing → KeysHeld s

/-- FCAUSE and FCMD are 0 until a fault is recorded, and a CORE that has recorded one runs nothing (R23, R203, R204). -/
def FaultInv (s : State) : Prop :=
  (s.fault = false → s.fcause = .noFault ∧ s.fcmd = 0) ∧ (s.fault = true → s.fcause ≠ .noFault ∧ s.run = none)

/-- BUF is in its canonical form and lists only bytes of BUF (R25). -/
def BufInv (s : State) : Prop := s.buf.wf = true ∧ s.buf.inBuf = true

/-- The invariant of the machine: what holds in every state between two steps. -/
def Inv (s : State) : Prop :=
  (∀ r, TableInv s r) ∧ KeyInv s ∧ RunInv s ∧ FaultInv s ∧ BufInv s ∧ s.pstate ≠ .verifying

end Sys2Proof.Machine
end

