-- ==== Sys2Proof/Certificates/Slice0/Obligations.lean ====
section
/-! DEFINITION. The statements about the machine, one `def Obligations.<Name> : Prop` each, from the numbered rules of
spec/. -/

open Sys2Proof Sys2Proof.Machine

/-! ## Encoding (spec/30_encoding.md) -/

/-- R61, R64: decoding the word of any well-formed command gives the command back, every operand at every value. -/
def Obligations.DecodeInvertsEncode : Prop :=
  ∀ i : Instr, i.wellFormed = true → decode (encode i) = .ok i

/-- R64, R65: a legal word is the word of exactly the command it decodes to. -/
def Obligations.EncodeInvertsDecode : Prop :=
  ∀ (w : Word) (i : Instr), decode w = .ok i → i.wellFormed = true ∧ encode i = w

/-- The opcode map of R64 as (match, mask) rows, GENBLUM's last. -/
def opcodeMap : List (Word × Word) :=
  [(0x04000000, 0xFC00FFFF), (0x08000000, 0xFC00FFFF), (0x0C000000, 0xFFE007FF), (0x10000000, 0xFC1F0000),
    (0x14000000, 0xFC1F0000), (0x18000000, 0xFC1F0000), (0x1C000000, 0xFC1F0000), (0x20000000, 0xFC1F0000),
    (0x24000000, 0xFC00FFFF), (0x28000000, 0xFC1F0000), (0x2C000000, 0xFC1F0000), (0x30000000, 0xFC1F0000),
    (0x34000000, 0xFC1F0000), (0x38000000, 0xFC0007FF), (0x3C000000, 0xFC1FFFFF), (0x40000000, 0xFC1FFFFF),
    (0x44000000, 0xFC1FFFFF), (0x48000000, 0xFC00FFFF), (0x4C000000, 0xFC00003F), (0x50000000, 0xFC00003F),
    (0x60000000, 0xFC1FFFFF), (0x64000000, 0xFC1F0000), (0x68000000, 0xFC1FFFFF), (0x70000000, 0xFC1FFFFF),
    (0x74000000, 0xFC0007FF), (0x80000000, 0xFFFFFFFF), (0x84000000, 0xFFFF0000), (0x88000000, 0xFFFF0000),
    (0x8C000000, 0xFFFFFFFF), (0x6C000000, 0xFC0007FF)]

/-- R64, R65: a word is legal exactly when it matches a row of the map and, for GENBLUM's row, its three register fields
are pairwise different. -/
def Obligations.WordIsLegalExactlyWhenARowMatches : Prop :=
  ∀ w : Word,
    (∃ i, decode w = .ok i) ↔
      (∃ row ∈ opcodeMap, w &&& row.2 = row.1) ∧
        (w &&& 0xFC0007FF = 0x6C000000 →
          w.extractLsb' 21 5 ≠ w.extractLsb' 16 5 ∧ w.extractLsb' 21 5 ≠ w.extractLsb' 11 5 ∧
            w.extractLsb' 16 5 ≠ w.extractLsb' 11 5)

/-- Words written out from the encodings of R64 decode to the commands they stand for (the words of V60 and V61). -/
def Obligations.SampleWordsDecode : Prop :=
  decode 0x0BFE0000 = .ok (.sub 31 30) ∧ decode 0x0C05C000 = .ok (.cmp 5 24) ∧
    decode 0x17E0001E = .ok (.shr 31 30) ∧ decode 0x2A600080 = .ok (.ldb 19 128) ∧
    decode 0x508531C0 = .ok (.exp 4 5 6 7) ∧ decode 0x6C011000 = .ok (.genblum 0 1 2) ∧
    decode 0x84000010 = .ok (.sign 16) ∧ decode 0x8C000000 = .ok .keyfin ∧
    decode 0x54000000 = .error .unassignedOpcode ∧ decode 0x04010001 = .error .fieldNotZero ∧
    decode 0x6C210800 = .error .registersNotDifferent

/-! ## The sequencer and the host port (spec/10_state.md, spec/20_memory.md) -/

/-- R24: when the next turn is the host's write of a legal word to CMD and the CORE is idle with no fault recorded, the
step is the command's execution, and the command is well-formed. The turn is taken off the agenda. -/
def Obligations.StepRunsTheDecodedCommand : Prop :=
  (∀ (s : State) (rest : List HostAction) (w : Word) (i : Instr),
    s.agenda = .write 0 w :: rest → s.run = none → s.fault = false → decode w = .ok i →
      i.wellFormed = true ∧ step s = exec i { s with agenda := rest }) ∧
  ∀ (s : State) (w : Word) (i : Instr), decode w = .ok i →
    step (s.withFetchWord 32 w.toNat) = exec i { s with run := none, fault := false }

/-- R65: an illegal word written to CMD raises ILLCMD, records the word, and changes no other state. -/
def Obligations.IllegalWordRaisesIllcmd : Prop :=
  ∀ (s : State) (rest : List HostAction) (w : Word) (e : IllegalWord),
    s.agenda = .write 0 w :: rest → s.run = none → s.fault = false → decode w = .error e →
      step s = .next { s with agenda := rest, fault := true, fcause := .illcmd, fcmd := w, run := none }

/-- R24, R47: while a command runs or a fault is recorded, every host write but one to CTRL is ignored, CMD included. -/
def Obligations.HostWritesAreIgnoredWhileBusyOrFaulted : Prop :=
  ∀ (s : State) (rest : List HostAction) (a : Nat) (v : Word),
    s.agenda = .write a v :: rest → a ≠ 5 → s.run ≠ none ∨ s.fault = true →
      step s = .next { s with agenda := rest }

/-- R203: fault entry writes FAULT, FCAUSE, FCMD and BUSY and nothing else; from then on a write to CMD changes nothing,
and a host read answers as it does without the fault. -/
def Obligations.FaultEntryStopsTheCore : Prop :=
  (∀ (c : Cause) (w : Word) (s : State),
    takeFault c w s = { s with fault := true, fcause := c, fcmd := w, run := none }) ∧
  ∀ (c : Cause) (w : Word) (s : State) (rest : List HostAction),
    (∀ v, (takeFault c w s).agenda = .write 0 v :: rest →
      step (takeFault c w s) = .next { takeFault c w s with agenda := rest }) ∧
    (∀ a, (takeFault c w s).agenda = .read a :: rest →
      step (takeFault c w s) =
        .next { takeFault c w s with agenda := rest, hostData := readWord a (takeFault c w s) })

/-- R204: once a fault is recorded, no step but a reset changes anything of the CORE: only the agenda moves on and the
host may be answered. -/
def Obligations.FaultIsTerminalUntilReset : Prop :=
  ∀ (s t : State), s.fault = true → s.run = none → step s = .next t →
    (∀ v rest, s.agenda = .write 5 v :: rest → v.getLsbD 0 = false) → s.agenda.head? ≠ some .reset →
      t = { s with agenda := s.agenda.tail, hostData := t.hostData }

/-- R205: a command that records a fault changes nothing but the fault record: no register, table, byte, flag or outside
answer; and a command that goes on after a retry never faults. -/
def Obligations.FaultingCommandHasNoOtherEffect : Prop :=
  (∀ (i : Instr) (s t : State), s.fault = false → exec i s = .next t → t.fault = true →
    t = takeFault t.fcause (encode i) s) ∧
  ∀ s : State, (coreWork s).fault = s.fault

/-- The fault conditions of the commands on the start state: the `Faults` lines of the rules R81 to R95, R120 to R124,
R140, R150 to R157 and R181 to R185. -/
def faultCondition (i : Instr) (s : State) (c : Cause) : Prop :=
  let wide (r : Reg) : Prop := 24 ≤ r.toNat
  let on (r : Reg) : Prop := s.tabActive r = true
  let outside (r : Reg) (pos : Imm) : Prop := (if r.toNat < 24 then 1050 else 2070) ≤ pos.toNat
  let keysHere : Prop := s.pstate = .keysGenerated
  match i with
  | .add rd ra => (c = .width ∧ regLen rd ≠ regLen ra) ∨ (c = .tabactive ∧ on rd)
  | .sub rd ra => (c = .width ∧ regLen rd ≠ regLen ra) ∨ (c = .tabactive ∧ on rd)
  | .cmp _ _ => False
  | .shl rd _ => c = .tabactive ∧ on rd
  | .shr rd _ => c = .tabactive ∧ on rd
  | .getbit rd pos => c = .range ∧ outside rd pos
  | .setbit rd pos => (c = .range ∧ outside rd pos) ∨ (c = .tabactive ∧ on rd)
  | .clrbit rd pos => (c = .range ∧ outside rd pos) ∨ (c = .tabactive ∧ on rd)
  | .copy rd _ => c = .tabactive ∧ on rd
  | .ldb rd a => (c = .bufrange ∧ a.toNat + regLen rd / 8 > Config.bufSize) ∨ (c = .tabactive ∧ on rd)
  | .stb rd a => c = .bufrange ∧ a.toNat + regLen rd / 8 > Config.bufSize
  | .ldhex rd a => (c = .bufrange ∧ a.toNat + s.len.toNat > Config.bufSize) ∨ (c = .tabactive ∧ on rd)
  | .sthex rd a => c = .bufrange ∧ a.toNat + regLen rd / 4 > Config.bufSize
  | .mulhalf rd ra rb =>
    (c = .range ∧ (2 ^ (regLen rd / 2) ≤ s.x ra ∨ 2 ^ (regLen rd / 2) ≤ s.x rb)) ∨ (c = .tabactive ∧ on rd)
  | .rand rd => c = .tabactive ∧ on rd
  | .tabinit rd => (c = .width ∧ wide rd) ∨ (c = .tabactive ∧ on rd) ∨ (c = .zeromod ∧ s.x rd = 0)
  | .tabshut rd =>
    (c = .pstate ∧ (rd = 16 ∨ rd = 17 ∨ rd = 18) ∧ keysHere) ∨ (c = .width ∧ wide rd) ∨ (c = .notable ∧ ¬ on rd)
  | .mod rd ra =>
    (c = .width ∧ wide ra) ∨ (c = .notable ∧ ¬ on ra) ∨ (c = .tabactive ∧ on rd) ∨
      (c = .reduce ∧ 0 < s.x rd ∧ 2 * (s.tab ra).msb < msbOf (s.x rd))
  | .mulmont rd ra rb rc =>
    (c = .width ∧ (wide rd ∨ wide ra ∨ wide rb ∨ wide rc)) ∨ (c = .notable ∧ ¬ on rc) ∨ (c = .tabactive ∧ on rd) ∨
      (c = .reduce ∧ 2 ^ ((s.tab rc).msb + 1) ≤ montT (s.x ra) (s.x rb) (s.x rc) (s.tab rc).msb)
  | .exp rd ra rb rc =>
    (c = .width ∧ (wide rd ∨ wide ra ∨ wide rb ∨ wide rc)) ∨ (c = .notable ∧ ¬ on rc) ∨ (c = .tabactive ∧ on rd) ∨
      (c = .reduce ∧ 0 < s.x ra ∧ 2 * (s.tab rc).msb < msbOf (s.x ra))
  | .tdiv _ => False
  | .mrtest rd _ => (c = .width ∧ wide rd) ∨ (c = .range ∧ s.x rd < 3) ∨ (c = .tabactive ∧ on rd)
  | .genprime rd => (c = .width ∧ wide rd) ∨ (c = .tabactive ∧ on rd)
  | .genblum rd ra rb => (c = .width ∧ (wide rd ∨ wide ra ∨ wide rb)) ∨ (c = .tabactive ∧ (on rd ∨ on ra ∨ on rb))
  | .genblumn rd => (c = .width ∧ wide rd) ∨ (c = .tabactive ∧ on rd)
  | .gcd rd ra rb => (c = .width ∧ ¬ (regLen rd = regLen ra ∧ regLen ra = regLen rb)) ∨ (c = .tabactive ∧ on rd)
  | .keygen =>
    (c = .pstate ∧ ¬ (s.pstate = .uninitialized ∨ s.pstate = .finalized)) ∨ (c = .tabactive ∧ (on 16 ∨ on 17 ∨ on 18))
  | .sign a =>
    (c = .pstate ∧ ¬ keysHere) ∨ (c = .bufrange ∧ a.toNat + s.len.toNat > Config.bufSize) ∨
      (c = .tabactive ∧ (on 19 ∨ on 20))
  | .verify a => (c = .pstate ∧ ¬ keysHere) ∨ (c = .bufrange ∧ a.toNat + s.len.toNat > Config.bufSize)
  | .keyfin => c = .pstate ∧ ¬ keysHere

/-- R206: if a command meets the conditions of several causes, the cause with the lowest code is recorded; if it meets none,
no fault is recorded; and a malformed word is ILLCMD whatever else, the lowest code there is. -/
def Obligations.LowestFaultCodeIsRecorded : Prop :=
  (∀ (w : Word) (e : IllegalWord) (s : State), decode w = .error e →
    startCommand w s = .next (takeFault .illcmd w s) ∧ ∀ i c, faultCondition i s c → Cause.illcmd.code < c.code) ∧
  ∀ (i : Instr) (s : State),
    (∀ c, faultCondition i s c → (∀ c', faultCondition i s c' → c.code ≤ c'.code) →
      exec i s = .next (takeFault c (encode i) s)) ∧
    ((∀ c, ¬ faultCondition i s c) → ∃ t, exec i s = .next t ∧ t.fault = s.fault ∧ t.fcause = s.fcause ∧ t.fcmd = s.fcmd)

/-- Every step answers a next state: no word, state or host action stops the model (R237: every misuse is a fault of the
CORE's own). -/
def Obligations.EveryStepAnswersANextState : Prop :=
  (∀ (i : Instr) (s : State), ∃ t, exec i s = .next t) ∧ ∀ s : State, ∃ t, step s = .next t

/-- R19, R20, R26, R47: what a host read answers while no command runs, address by address, and that it has no other
effect (R45). -/
def Obligations.HostReadsShowTheState : Prop :=
  ∀ (s : State) (rest : List HostAction) (a : Nat), s.agenda = .read a :: rest → s.run = none →
    ∃ v : Word, step s = .next { s with agenda := rest, hostData := v } ∧
      (a = 0 ∨ a = 5 ∨ (8 ≤ a ∧ a < 0x400) ∨ 0x400 + Config.bufSize / 4 ≤ a → v = 0) ∧
      (a = 1 →
        v.getLsbD 0 = false ∧ v.getLsbD 1 = s.fault ∧ v.getLsbD 2 = s.cf ∧ (v.extractLsb' 3 2).toNat = s.cmpr.code ∧
          v.getLsbD 5 = s.tf ∧ v.getLsbD 6 = s.warn ∧ v.getLsbD 7 = s.cerr ∧
          (v.extractLsb' 8 3).toNat = s.pstate.code ∧ ∀ k, 11 ≤ k → v.getLsbD k = false) ∧
      (a = 2 → v.toNat = s.len.toNat) ∧ (a = 3 → v.toNat = s.fcause.code) ∧ (a = 4 → v = s.fcmd) ∧
      (a = 6 → v = Config.hashId) ∧ (a = 7 → ∀ k : Nat, v.getLsbD k = decide (k < 24 ∧ s.tabActive (BitVec.ofNat 5 k) = true)) ∧
      (∀ k, a = 0x400 + k → k < Config.bufSize / 4 → ∀ b, b < 4 → v.extractLsb' (8 * b) 8 = s.byte (4 * k + b))

/-- R47: while a command runs, a STATUS read shows BUSY = 1 and PSTATE, and no host read has an effect but its answer and
the unspecified value drawn for it. -/
def Obligations.BusyReadsShowBusyAndPstate : Prop :=
  ∀ (s : State) (rest : List HostAction) (a : Nat), s.agenda = .read a :: rest → s.run ≠ none →
    ∃ v : Word,
      step s = .next { s with
        agenda := rest, hostData := v, draws := { s.draws with freePos := s.draws.freePos + 1 } } ∧
      (a = 1 → v.getLsbD 0 = true ∧ (v.extractLsb' 8 3).toNat = s.pstate.code)

/-- R43: a host word written to the BUF window lies in BUF with bits `8b+7:8b` at byte `4k+b`, no other byte changes, and
reading the window gives the word back. -/
def Obligations.WindowWordIsLittleEndian : Prop :=
  ∀ (s : State) (rest : List HostAction) (k : Nat) (v : Word), k < Config.bufSize / 4 →
    s.agenda = .write (0x400 + k) v :: rest → s.run = none → s.fault = false →
      ∃ t, step s = .next t ∧ (∀ b, b < 4 → t.byte (4 * k + b) = v.extractLsb' (8 * b) 8) ∧
        KeepsBytes s t (4 * k) 4 ∧ readWord (0x400 + k) t = v ∧
        KeepsRegs s t [] ∧ KeepsTabs s t [] ∧ t.flags = s.flags ∧ KeepsDraws s t ∧
        t = { s with agenda := rest, buf := t.buf }

/-- R19: a write to LEN stores bits 15:0 and ignores bits 31:16; writes to the read-only registers, to reserved addresses
and above the window change nothing. -/
def Obligations.HostWritesLenAndIgnoresTheRest : Prop :=
  ∀ (s : State) (rest : List HostAction) (a : Nat) (v : Word), s.run = none → s.fault = false →
    s.agenda = .write a v :: rest →
      (a = 2 → step s = .next { s with agenda := rest, len := v.extractLsb' 0 16 }) ∧
      (a = 1 ∨ a = 3 ∨ a = 4 ∨ a = 6 ∨ a = 7 ∨ (8 ≤ a ∧ a < 0x400) ∨ 0x400 + Config.bufSize / 4 ≤ a →
        step s = .next { s with agenda := rest })

/-- R31, R230: the machine starts with the reset values; the reset input and a write to CTRL with bit 0 set leave them too,
at any time, and the word stream goes on where it was; a CTRL write with bit 0 clear does nothing. -/
def Obligations.ResetLeavesTheResetValues : Prop :=
  AtReset State.reset ∧
    ∀ (s : State) (rest : List HostAction) (v : Word),
      (s.agenda = .reset :: rest ∨ (s.agenda = .write 5 v :: rest ∧ v.getLsbD 0 = true) →
        ∃ t, step s = .next t ∧ AtReset t ∧ t.draws = s.draws ∧ t.agenda = rest) ∧
      (s.agenda = .write 5 v :: rest → v.getLsbD 0 = false → step s = .next { s with agenda := rest })

/-- R158, R236: a command that has come to a retry goes on with it in each turn the host leaves to it, and with an empty
agenda every turn is left to it; an idle CORE does nothing in such a turn. What each running command leaves (R152, R153,
R155, R156, R181, R183): its results and BUSY 0 if the draws of this turn end it, and itself at the next retry with nothing
written if they do not. The turns and the steps at a retry are the model's choice (log entries 2 and 4). -/
def Obligations.RunningCommandGoesOn : Prop :=
  (∀ s : State,
    (∀ rest, s.agenda = .wait :: rest → step s = .next (coreWork { s with agenda := rest })) ∧
    (s.agenda = [] → step s = .next (coreWork s)) ∧ (s.run = none → coreWork s = s)) ∧
  ∀ s : State, Inv s →
    let t := coreWork s
    KeepsBytes s t 0 0 ∧ KeepsControlButBusy s t ∧
    (∀ rd k, s.run = some (.mrtest rd k) →
      let tested := millerRabin (s.x rd) k s.draws
      (tested.1 = .prime → t.run = none ∧ t.tabActive rd = false ∧ t.flags = { s.flags with tf := true }) ∧
      (tested.1 = .composite → t.run = none ∧ t.tabActive rd = false ∧ t.flags = { s.flags with tf := false }) ∧
      (∀ j, tested.1 = .redraw j →
        1 ≤ j ∧ j ≤ k ∧ t.run = some (.mrtest rd j) ∧ t.flags = s.flags ∧ KeepsTabs s t []) ∧
      t.draws = tested.2 ∧ KeepsRegs s t [] ∧ KeepsTabs s t [rd]) ∧
    (∀ rd c, s.run = some (.genprime rd c) →
      let searched := searchPrime .full c s.draws
      (∀ p, searched.1 = .found p → FullShape p ∧ t.x rd = p ∧ t.run = none ∧ KeepsRegs s t [rd]) ∧
      (∀ c', searched.1 = .retry c' → t.run = some (.genprime rd c') ∧ KeepsRegs s t []) ∧
      t.draws = searched.2 ∧ t.flags = s.flags ∧ KeepsTabs s t []) ∧
    (∀ dest f c, s.run = some (.blum dest f c) →
      let searched := searchPair f c s.draws
      (∀ p q, searched.1 = .found p q →
        HalfShape p ∧ HalfShape q ∧ t.run = none ∧
          (∀ rd ra rb, dest = .genblum rd ra rb →
            t.x ra = p ∧ t.x rb = q ∧ t.x rd = p * q ∧ t.flags = s.flags ∧ KeepsRegs s t [rd, ra, rb] ∧
              KeepsTabs s t []) ∧
          (∀ rd, dest = .genblumn rd →
            t.x rd = p * q ∧ t.flags = s.flags ∧ KeepsRegs s t [rd] ∧ KeepsTabs s t []) ∧
          (dest = .keygen →
            t.x 17 = p ∧ t.x 18 = q ∧ t.x 16 = p * q ∧ t.tabActive 16 = true ∧ t.tabActive 17 = true ∧
              t.tabActive 18 = true ∧ TableInv t 16 ∧ TableInv t 17 ∧ TableInv t 18 ∧
              t.flags = { s.flags with pstate := .keysGenerated } ∧ KeepsRegs s t [16, 17, 18] ∧
              KeepsTabs s t [16, 17, 18])) ∧
      (∀ f' c', searched.1 = .retry f' c' →
        t.run = some (.blum dest f' c') ∧ t.flags = s.flags ∧ KeepsRegs s t [] ∧ KeepsTabs s t []) ∧
      t.draws = searched.2) ∧
    (∀ a, s.run = some (.sign a) →
      let r := (randFill 1024 s.draws).1
      let h := messageHash s a.toNat r
      (ResidueForBoth (s.x 17) (s.x 18) h →
        t.x 19 = r ∧ t.x 20 = garnerRoot (s.x 17) (s.x 18) h ∧ t.flags = { s.flags with pstate := .keysGenerated } ∧
          t.run = none ∧ KeepsRegs s t [19, 20]) ∧
      (¬ ResidueForBoth (s.x 17) (s.x 18) h →
        t.flags = s.flags ∧ t.run = some (.sign a) ∧ KeepsRegs s t []) ∧
      t.draws = s.draws.afterOneDraw ∧ KeepsTabs s t [])

/-! ## Registers and integer commands (spec/10_state.md R12, spec/41_fixedwidth_integer.md) -/

/-- R12: the blocks of a register are as many as its length says, each within its width, and their sum is its value. -/
def Obligations.BlocksRepresentTheValue : Prop :=
  ∀ (s : State) (r : Reg),
    (s.blocks r).length = (if r.toNat < 24 then 35 else 69) ∧ ofBlocks (s.blocks r) = s.x r ∧
      (∀ j, j < (s.blocks r).length → (s.blocks r).getD j 0 = s.x r / 2 ^ (30 * j) % 2 ^ 30) ∧
      (s.blocks r).getD ((s.blocks r).length - 1) 0 < (if r.toNat < 24 then 2 ^ 4 else 2 ^ 8)

/-- R81: the block chain of ADD computes the sum modulo `2^L` and its carry-out. -/
def Obligations.AddIsAdditionWithCarry : Prop :=
  ∀ (rd ra : Reg) (s : State),
    (regLen rd ≠ regLen ra → exec (.add rd ra) s = .next (takeFault .width (encode (.add rd ra)) s)) ∧
    (regLen rd = regLen ra → s.tabActive rd = true →
      exec (.add rd ra) s = .next (takeFault .tabactive (encode (.add rd ra)) s)) ∧
    (regLen rd = regLen ra → s.tabActive rd = false →
      ∃ t, exec (.add rd ra) s = .next t ∧ t.x rd = (s.x rd + s.x ra) % 2 ^ regLen rd ∧
        t.flags = { s.flags with cf := decide (2 ^ regLen rd ≤ s.x rd + s.x ra) } ∧ OnlyRegs s t [rd])

/-- R82: the marker-bit chain of SUB computes the difference modulo `2^L`, and writes no flag. -/
def Obligations.SubIsSubtractionModulo : Prop :=
  ∀ (rd ra : Reg) (s : State),
    (regLen rd ≠ regLen ra → exec (.sub rd ra) s = .next (takeFault .width (encode (.sub rd ra)) s)) ∧
    (regLen rd = regLen ra → s.tabActive rd = true →
      exec (.sub rd ra) s = .next (takeFault .tabactive (encode (.sub rd ra)) s)) ∧
    (regLen rd = regLen ra → s.tabActive rd = false →
      ∃ t, exec (.sub rd ra) s = .next t ∧
        (t.x rd : Int) = ((s.x rd : Int) - (s.x ra : Int)) % (2 : Int) ^ regLen rd ∧
        t.flags = s.flags ∧ OnlyRegs s t [rd])

/-- R83, its value level, which the spec marks as derived: the block comparison of CMP is the comparison of the two integers,
whatever the lengths. -/
def Obligations.CmpComparesTheIntegers : Prop :=
  ∀ (ra rb : Reg) (s : State),
    ∃ t, exec (.cmp ra rb) s = .next t ∧
      t.flags = { s.flags with
        cmpr := if s.x ra = s.x rb then .equal else if s.x ra > s.x rb then .greater else .less } ∧
      OnlyRegs s t []

/-- R84, R85: SHL and SHR shift by any count; a count of the length or more gives 0. -/
def Obligations.ShiftsMultiplyAndDivide : Prop :=
  ∀ (rd : Reg) (n : Imm) (s : State),
    (s.tabActive rd = true →
      exec (.shl rd n) s = .next (takeFault .tabactive (encode (.shl rd n)) s) ∧
        exec (.shr rd n) s = .next (takeFault .tabactive (encode (.shr rd n)) s)) ∧
    (s.tabActive rd = false →
      (∃ t, exec (.shl rd n) s = .next t ∧ t.x rd = s.x rd * 2 ^ n.toNat % 2 ^ regLen rd ∧
        t.flags = s.flags ∧ OnlyRegs s t [rd]) ∧
      (∃ t, exec (.shr rd n) s = .next t ∧ t.x rd = s.x rd / 2 ^ n.toNat ∧
        t.flags = s.flags ∧ OnlyRegs s t [rd]))

/-- R86: GETBIT reads a bit of the value into TF; a position beyond the block buffer is a RANGE fault. -/
def Obligations.GetbitReadsTheBit : Prop :=
  ∀ (rd : Reg) (pos : Imm) (s : State),
    ((if rd.toNat < 24 then 1050 else 2070) ≤ pos.toNat →
      exec (.getbit rd pos) s = .next (takeFault .range (encode (.getbit rd pos)) s)) ∧
    (pos.toNat < (if rd.toNat < 24 then 1050 else 2070) →
      ∃ t, exec (.getbit rd pos) s = .next t ∧ t.flags = { s.flags with tf := (s.x rd).testBit pos.toNat } ∧
        OnlyRegs s t [])

/-- R87, R88: SETBIT and CLRBIT change one bit of the value; a position from the length up to the end of the block buffer
changes nothing, and one beyond it is a RANGE fault. -/
def Obligations.SetbitAndClrbitChangeOneBit : Prop :=
  ∀ (rd : Reg) (pos : Imm) (s : State),
    ((if rd.toNat < 24 then 1050 else 2070) ≤ pos.toNat →
      exec (.setbit rd pos) s = .next (takeFault .range (encode (.setbit rd pos)) s) ∧
        exec (.clrbit rd pos) s = .next (takeFault .range (encode (.clrbit rd pos)) s)) ∧
    (pos.toNat < (if rd.toNat < 24 then 1050 else 2070) → s.tabActive rd = true →
      exec (.setbit rd pos) s = .next (takeFault .tabactive (encode (.setbit rd pos)) s) ∧
        exec (.clrbit rd pos) s = .next (takeFault .tabactive (encode (.clrbit rd pos)) s)) ∧
    (pos.toNat < (if rd.toNat < 24 then 1050 else 2070) → s.tabActive rd = false →
      (∃ t, exec (.setbit rd pos) s = .next t ∧
        (∀ j, (t.x rd).testBit j = ((s.x rd).testBit j || decide (j = pos.toNat ∧ pos.toNat < regLen rd))) ∧
        t.flags = s.flags ∧ OnlyRegs s t [rd]) ∧
      (∃ t, exec (.clrbit rd pos) s = .next t ∧
        (∀ j, (t.x rd).testBit j = ((s.x rd).testBit j && decide (j ≠ pos.toNat))) ∧
        t.flags = s.flags ∧ OnlyRegs s t [rd]))

/-- R89, its value level, which the spec marks as derived: COPY moves the overlapping low blocks, in its three cases of
lengths. -/
def Obligations.CopyMovesTheOverlappingBlocks : Prop :=
  ∀ (rd ra : Reg) (s : State),
    (s.tabActive rd = true → exec (.copy rd ra) s = .next (takeFault .tabactive (encode (.copy rd ra)) s)) ∧
    (s.tabActive rd = false →
      ∃ t, exec (.copy rd ra) s = .next t ∧
        (regLen rd = regLen ra → t.x rd = s.x ra) ∧
        (rd.toNat < 24 → 24 ≤ ra.toNat → t.x rd = s.x ra % 2 ^ 1024) ∧
        (24 ≤ rd.toNat → ra.toNat < 24 → t.x rd = s.x ra + s.x rd / 2 ^ 1050 * 2 ^ 1050) ∧
        t.flags = s.flags ∧ OnlyRegs s t [rd])

/-- R94: MULHALF writes the full product of two half-length values; a longer factor is a RANGE fault. -/
def Obligations.MulhalfWritesTheProduct : Prop :=
  ∀ (rd ra rb : Reg) (s : State),
    (2 ^ (regLen rd / 2) ≤ s.x ra ∨ 2 ^ (regLen rd / 2) ≤ s.x rb →
      exec (.mulhalf rd ra rb) s = .next (takeFault .range (encode (.mulhalf rd ra rb)) s)) ∧
    (s.x ra < 2 ^ (regLen rd / 2) → s.x rb < 2 ^ (regLen rd / 2) → s.tabActive rd = true →
      exec (.mulhalf rd ra rb) s = .next (takeFault .tabactive (encode (.mulhalf rd ra rb)) s)) ∧
    (s.x ra < 2 ^ (regLen rd / 2) → s.x rb < 2 ^ (regLen rd / 2) → s.tabActive rd = false →
      ∃ t, exec (.mulhalf rd ra rb) s = .next t ∧ t.x rd = s.x ra * s.x rb ∧ t.flags = s.flags ∧ OnlyRegs s t [rd])

/-- R95, R96: RAND takes one word of the stream for each block, block 0 first, masks it to the block's width, and leaves
the rest of the stream. -/
def Obligations.RandFillsBlocksFromTheStream : Prop :=
  ∀ (rd : Reg) (s : State),
    (s.tabActive rd = true → exec (.rand rd) s = .next (takeFault .tabactive (encode (.rand rd)) s)) ∧
    (s.tabActive rd = false →
      ∃ t, exec (.rand rd) s = .next t ∧
        (∀ j, j < blockCount (regLen rd) - 1 →
          t.x rd / 2 ^ (30 * j) % 2 ^ 30 = (s.draws.nth j).toNat % 2 ^ 30) ∧
        t.x rd / 2 ^ (30 * (blockCount (regLen rd) - 1)) =
          (s.draws.nth (blockCount (regLen rd) - 1)).toNat % 2 ^ lastBlockBits (regLen rd) ∧
        t.draws.rngPos = s.draws.rngPos + blockCount (regLen rd) ∧ t.draws.freePos = s.draws.freePos ∧
        (∀ k, t.draws.nth k = s.draws.nth (blockCount (regLen rd) + k)) ∧
        t.flags = s.flags ∧ KeepsRegs s t [rd] ∧ KeepsTabs s t [] ∧ KeepsBytes s t 0 0 ∧ KeepsControl s t)

/-- R90, R41: LDB reads the value whose big-endian base-256 digits are the `L/8` bytes at the address. -/
def Obligations.LdbLoadsBigEndianBytes : Prop :=
  ∀ (rd : Reg) (a : Imm) (s : State),
    (a.toNat + regLen rd / 8 > Config.bufSize → exec (.ldb rd a) s = .next (takeFault .bufrange (encode (.ldb rd a)) s)) ∧
    (a.toNat + regLen rd / 8 ≤ Config.bufSize → s.tabActive rd = true →
      exec (.ldb rd a) s = .next (takeFault .tabactive (encode (.ldb rd a)) s)) ∧
    (a.toNat + regLen rd / 8 ≤ Config.bufSize → s.tabActive rd = false →
      ∃ t, exec (.ldb rd a) s = .next t ∧
        (∀ j, j < regLen rd / 8 →
          t.x rd / 256 ^ (regLen rd / 8 - 1 - j) % 256 = (s.byte (a.toNat + j)).toNat) ∧
        t.flags = s.flags ∧ OnlyRegs s t [rd])

/-- R91, R41: STB stores the `L/8` bytes of the value, the most significant at the lowest address, and no other byte. -/
def Obligations.StbStoresBigEndianBytes : Prop :=
  ∀ (rd : Reg) (a : Imm) (s : State),
    (a.toNat + regLen rd / 8 > Config.bufSize → exec (.stb rd a) s = .next (takeFault .bufrange (encode (.stb rd a)) s)) ∧
    (a.toNat + regLen rd / 8 ≤ Config.bufSize →
      ∃ t, exec (.stb rd a) s = .next t ∧
        (∀ j, j < regLen rd / 8 →
          (t.byte (a.toNat + j)).toNat = s.x rd / 256 ^ (regLen rd / 8 - 1 - j) % 256) ∧
        KeepsBytes s t a.toNat (regLen rd / 8) ∧ t.flags = s.flags ∧ KeepsRegs s t [] ∧ KeepsTabs s t [] ∧
        KeepsDraws s t ∧ KeepsControl s t)

/-- R92: LDHEX in its three cases: a legal string that fits, one that is cut as HEX_TRUNC says, and one that fails, which
leaves the destination unspecified. The faults are BUFRANGE and TABACTIVE. -/
def Obligations.LdhexLoadsOrReports : Prop :=
  ∀ (rd : Reg) (a : Imm) (s : State),
    (a.toNat + s.len.toNat > Config.bufSize → exec (.ldhex rd a) s = .next (takeFault .bufrange (encode (.ldhex rd a)) s)) ∧
    (a.toNat + s.len.toNat ≤ Config.bufSize → s.tabActive rd = true →
      exec (.ldhex rd a) s = .next (takeFault .tabactive (encode (.ldhex rd a)) s)) ∧
    (a.toNat + s.len.toNat ≤ Config.bufSize → s.tabActive rd = false →
      ∃ t, exec (.ldhex rd a) s = .next t ∧
        (s.len.toNat ≠ 0 → s.len.toNat ≤ regLen rd / 4 →
          (∀ k, k < s.len.toNat → ∃ v, IsHexDigit (s.byte (a.toNat + k)) v) →
            (∀ k, k < s.len.toNat →
              IsHexDigit (s.byte (a.toNat + k)) (t.x rd / 16 ^ (s.len.toNat - 1 - k) % 16)) ∧
            t.x rd < 16 ^ s.len.toNat ∧ t.flags = { s.flags with cerr := false, warn := false } ∧ KeepsDraws s t) ∧
        (regLen rd / 4 < s.len.toNat → (∀ k, k < s.len.toNat → ∃ v, IsHexDigit (s.byte (a.toNat + k)) v) →
            (∀ k, k < regLen rd / 4 →
              IsHexDigit
                (s.byte (a.toNat +
                  (match Config.hexTrunc with | .keepLow => s.len.toNat - regLen rd / 4 | .keepHigh => 0) + k))
                (t.x rd / 16 ^ (regLen rd / 4 - 1 - k) % 16)) ∧
            t.flags = { s.flags with cerr := false, warn := true } ∧ KeepsDraws s t) ∧
        (s.len.toNat = 0 ∨ (∃ k, k < s.len.toNat ∧ ∀ v, ¬ IsHexDigit (s.byte (a.toNat + k)) v) →
            t.flags = { s.flags with cerr := true, warn := false } ∧
              t.draws = { s.draws with freePos := s.draws.freePos + 1 }) ∧
        KeepsRegs s t [rd] ∧ KeepsTabs s t [] ∧ KeepsBytes s t 0 0 ∧ KeepsControl s t)

/-- R93: STHEX stores exactly `L/4` upper-case hex characters, the most significant digit first, and no other byte. -/
def Obligations.SthexStoresUpperCaseDigits : Prop :=
  ∀ (rd : Reg) (a : Imm) (s : State),
    (a.toNat + regLen rd / 4 > Config.bufSize →
      exec (.sthex rd a) s = .next (takeFault .bufrange (encode (.sthex rd a)) s)) ∧
    (a.toNat + regLen rd / 4 ≤ Config.bufSize →
      ∃ t, exec (.sthex rd a) s = .next t ∧
        (∀ k, k < regLen rd / 4 →
          (t.byte (a.toNat + k)).toNat =
            (let d := s.x rd / 16 ^ (regLen rd / 4 - 1 - k) % 16; if d < 10 then 0x30 + d else 0x37 + d)) ∧
        KeepsBytes s t a.toNat (regLen rd / 4) ∧ t.flags = s.flags ∧ KeepsRegs s t [] ∧ KeepsTabs s t [] ∧
        KeepsDraws s t ∧ KeepsControl s t)

/-- R91, R93, R97: a value stored by STB and loaded by LDB, or stored by STHEX and loaded by LDHEX with LEN the number of
digits, comes back whole. -/
def Obligations.StoredValuesLoadBack : Prop :=
  ∀ (rd re : Reg) (a : Imm) (s : State), regLen rd = regLen re → s.tabActive re = false →
    (a.toNat + regLen rd / 8 ≤ Config.bufSize →
      ∃ t u, exec (.stb rd a) s = .next t ∧ exec (.ldb re a) t = .next u ∧ u.x re = s.x rd) ∧
    (a.toNat + regLen rd / 4 ≤ Config.bufSize →
      ∃ t u, exec (.sthex rd a) s = .next t ∧
        exec (.ldhex re a) { t with len := BitVec.ofNat 16 (regLen rd / 4) } = .next u ∧
        u.x re = s.x rd ∧ u.cerr = false ∧ u.warn = false)

/-! ## The modular engine and exponentiation (spec/42_modular_engine.md, spec/43_exponentiation.md) -/

/-- R120: TABINIT builds the table of the register's value: `msb`, and `entry[j] = 2^(msb+j) mod M` for `j = 0 .. msb`. -/
def Obligations.TabinitBuildsTheTable : Prop :=
  ∀ (rd : Reg) (s : State),
    (24 ≤ rd.toNat → exec (.tabinit rd) s = .next (takeFault .width (encode (.tabinit rd)) s)) ∧
    (rd.toNat < 24 → s.tabActive rd = true →
      exec (.tabinit rd) s = .next (takeFault .tabactive (encode (.tabinit rd)) s)) ∧
    (rd.toNat < 24 → s.tabActive rd = false → s.x rd = 0 →
      exec (.tabinit rd) s = .next (takeFault .zeromod (encode (.tabinit rd)) s)) ∧
    (rd.toNat < 24 → s.tabActive rd = false → s.x rd ≠ 0 →
      ∃ t, exec (.tabinit rd) s = .next t ∧ t.tabActive rd = true ∧
        2 ^ (t.tab rd).msb ≤ s.x rd ∧ s.x rd < 2 ^ ((t.tab rd).msb + 1) ∧
        (t.tab rd).entries.length = (t.tab rd).msb + 1 ∧
        (∀ j, j ≤ (t.tab rd).msb → (t.tab rd).entry j = 2 ^ ((t.tab rd).msb + j) % s.x rd) ∧
        t.flags = s.flags ∧ KeepsRegs s t [] ∧ KeepsTabs s t [rd] ∧ KeepsBytes s t 0 0 ∧ KeepsDraws s t ∧
        KeepsControl s t)

/-- R121: TABSHUT closes the table and leaves the register; the key tables are closed by KEYFIN only. -/
def Obligations.TabshutClosesTheTable : Prop :=
  ∀ (rd : Reg) (s : State),
    (rd = 16 ∨ rd = 17 ∨ rd = 18 → s.pstate = .keysGenerated →
      exec (.tabshut rd) s = .next (takeFault .pstate (encode (.tabshut rd)) s)) ∧
    (24 ≤ rd.toNat → exec (.tabshut rd) s = .next (takeFault .width (encode (.tabshut rd)) s)) ∧
    (rd.toNat < 24 → ¬ ((rd = 16 ∨ rd = 17 ∨ rd = 18) ∧ s.pstate = .keysGenerated) → s.tabActive rd = false →
      exec (.tabshut rd) s = .next (takeFault .notable (encode (.tabshut rd)) s)) ∧
    (¬ ((rd = 16 ∨ rd = 17 ∨ rd = 18) ∧ s.pstate = .keysGenerated) → s.tabActive rd = true →
      ∃ t, exec (.tabshut rd) s = .next t ∧ t.tabActive rd = false ∧
        t.flags = s.flags ∧ KeepsRegs s t [] ∧ KeepsTabs s t [rd] ∧ KeepsBytes s t 0 0 ∧ KeepsDraws s t ∧
        KeepsControl s t)

/-- R122, its value level, which the spec marks as derived: under the table invariant, MOD leaves the remainder, and refuses
exactly the values longer than `2*msb(M)+1` bits. -/
def Obligations.ModComputesTheRemainder : Prop :=
  ∀ (rd ra : Reg) (s : State), TableInv s ra →
    (24 ≤ ra.toNat → exec (.mod rd ra) s = .next (takeFault .width (encode (.mod rd ra)) s)) ∧
    (ra.toNat < 24 → s.tabActive ra = false →
      exec (.mod rd ra) s = .next (takeFault .notable (encode (.mod rd ra)) s)) ∧
    (s.tabActive ra = true → s.tabActive rd = true →
      exec (.mod rd ra) s = .next (takeFault .tabactive (encode (.mod rd ra)) s)) ∧
    (s.tabActive ra = true → s.tabActive rd = false → bitlen (s.x rd) > 2 * msbOf (s.x ra) + 1 →
      exec (.mod rd ra) s = .next (takeFault .reduce (encode (.mod rd ra)) s)) ∧
    (s.tabActive ra = true → s.tabActive rd = false → bitlen (s.x rd) ≤ 2 * msbOf (s.x ra) + 1 →
      ∃ t, exec (.mod rd ra) s = .next t ∧ t.x rd = s.x rd % s.x ra ∧ t.flags = s.flags ∧ OnlyRegs s t [rd])

/-- R124: MULMONT's faults; and with an open table, whatever the modulus is, odd or even, the value it writes is
`T*2^k mod M`, `T` being what the loop, written as one number, leaves after the one subtraction. It raises REDUCE exactly when
`T` has more than `k` bits, which a `y` below the modulus excludes. -/
def Obligations.MulmontRunsTheLoop : Prop :=
  ∀ (rd ra rb rc : Reg) (s : State), TableInv s rc →
    let k := bitlen (s.x rc)
    let residue := montResidue (s.x ra) (s.x rb) (s.x rc) (msbOf (s.x rc))
    (24 ≤ rd.toNat ∨ 24 ≤ ra.toNat ∨ 24 ≤ rb.toNat ∨ 24 ≤ rc.toNat →
      exec (.mulmont rd ra rb rc) s = .next (takeFault .width (encode (.mulmont rd ra rb rc)) s)) ∧
    (rd.toNat < 24 → ra.toNat < 24 → rb.toNat < 24 → rc.toNat < 24 → s.tabActive rc = false →
      exec (.mulmont rd ra rb rc) s = .next (takeFault .notable (encode (.mulmont rd ra rb rc)) s)) ∧
    (rd.toNat < 24 → ra.toNat < 24 → rb.toNat < 24 → s.tabActive rc = true → s.tabActive rd = true →
      exec (.mulmont rd ra rb rc) s = .next (takeFault .tabactive (encode (.mulmont rd ra rb rc)) s)) ∧
    (rd.toNat < 24 → ra.toNat < 24 → rb.toNat < 24 → s.tabActive rc = true → s.tabActive rd = false →
      (2 ^ k ≤ residue →
        exec (.mulmont rd ra rb rc) s = .next (takeFault .reduce (encode (.mulmont rd ra rb rc)) s)) ∧
      (residue < 2 ^ k →
        ∃ t, exec (.mulmont rd ra rb rc) s = .next t ∧ t.x rd = residue * 2 ^ k % s.x rc ∧ t.flags = s.flags ∧
          OnlyRegs s t [rd]) ∧
      (s.x rb < s.x rc → residue < s.x rc ∧ s.x rc < 2 ^ k))

/-- R125: for an odd modulus MULMONT, when it raises no REDUCE, writes `(X[ra] mod 2^k) * X[rb] mod M`; and with
`X[rb] < M` it raises none. -/
def Obligations.MulmontIsModularMultiplication : Prop :=
  ∀ (rd ra rb rc : Reg) (s : State), TableInv s rc →
    rd.toNat < 24 → ra.toNat < 24 → rb.toNat < 24 → s.tabActive rc = true → s.tabActive rd = false →
    s.x rc % 2 = 1 →
      (exec (.mulmont rd ra rb rc) s = .next (takeFault .reduce (encode (.mulmont rd ra rb rc)) s) ∨
        ∃ t, exec (.mulmont rd ra rb rc) s = .next t ∧
          t.x rd = s.x ra % 2 ^ bitlen (s.x rc) * s.x rb % s.x rc ∧ t.flags = s.flags ∧ OnlyRegs s t [rd]) ∧
      (s.x rb < s.x rc →
        ∃ t, exec (.mulmont rd ra rb rc) s = .next t ∧
          t.x rd = s.x ra % 2 ^ bitlen (s.x rc) * s.x rb % s.x rc ∧ t.flags = s.flags ∧ OnlyRegs s t [rd])

/-- R140, R141: EXP's faults; and for an odd modulus the windowed exponentiation is `X[ra]^X[rb] mod X[rc]`. -/
def Obligations.ExpIsModularExponentiation : Prop :=
  ∀ (rd ra rb rc : Reg) (s : State), TableInv s rc →
    (24 ≤ rd.toNat ∨ 24 ≤ ra.toNat ∨ 24 ≤ rb.toNat ∨ 24 ≤ rc.toNat →
      exec (.exp rd ra rb rc) s = .next (takeFault .width (encode (.exp rd ra rb rc)) s)) ∧
    (rd.toNat < 24 → ra.toNat < 24 → rb.toNat < 24 → rc.toNat < 24 → s.tabActive rc = false →
      exec (.exp rd ra rb rc) s = .next (takeFault .notable (encode (.exp rd ra rb rc)) s)) ∧
    (rd.toNat < 24 → ra.toNat < 24 → rb.toNat < 24 → s.tabActive rc = true → s.tabActive rd = true →
      exec (.exp rd ra rb rc) s = .next (takeFault .tabactive (encode (.exp rd ra rb rc)) s)) ∧
    (rd.toNat < 24 → ra.toNat < 24 → rb.toNat < 24 → s.tabActive rc = true → s.tabActive rd = false →
      bitlen (s.x ra) > 2 * msbOf (s.x rc) + 1 →
      exec (.exp rd ra rb rc) s = .next (takeFault .reduce (encode (.exp rd ra rb rc)) s)) ∧
    (rd.toNat < 24 → ra.toNat < 24 → rb.toNat < 24 → s.tabActive rc = true → s.tabActive rd = false →
      bitlen (s.x ra) ≤ 2 * msbOf (s.x rc) + 1 → s.x rc % 2 = 1 →
      ∃ t, exec (.exp rd ra rb rc) s = .next t ∧ t.x rd = s.x ra ^ s.x rb % s.x rc ∧ t.flags = s.flags ∧
        OnlyRegs s t [rd])

/-- R140: for an even modulus EXP completes; the value it writes is unspecified and everything else is as for an odd
one. -/
def Obligations.ExpWithEvenModulusCompletes : Prop :=
  ∀ (rd ra rb rc : Reg) (s : State), TableInv s rc →
    rd.toNat < 24 → ra.toNat < 24 → rb.toNat < 24 → s.tabActive rc = true → s.tabActive rd = false →
    bitlen (s.x ra) ≤ 2 * msbOf (s.x rc) + 1 → s.x rc % 2 = 0 →
      ∃ t, exec (.exp rd ra rb rc) s = .next t ∧ t.flags = s.flags ∧ KeepsRegs s t [rd] ∧ KeepsTabs s t [] ∧
        KeepsBytes s t 0 0 ∧ KeepsControl s t ∧ t.draws = { s.draws with freePos := s.draws.freePos + 1 }

/-! ## Primality and generation (spec/44_primality_generation.md) -/

/-- R150: TDIV tells whether one of the eleven small primes divides the register. The list is R5's reading of the source's
ellipsis (DEDUCED: log entry 11). -/
def Obligations.TdivTestsTheSmallPrimes : Prop :=
  ∀ (rd : Reg) (s : State),
    ∃ t, exec (.tdiv rd) s = .next t ∧ t.flags = { s.flags with tf := t.tf } ∧
      (t.tf = true ↔ ∀ p ∈ [3, 5, 7, 11, 13, 17, 19, 23, 29, 31, 37], ¬ p ∣ s.x rd) ∧ OnlyRegs s t []

/-- R152: MRTEST's faults; with no round it passes; otherwise one witness is drawn, and out of range it is redrawn, in
range it rejects an odd `N` that is no strong probable prime to it, or goes on with one round less. -/
def Obligations.MrtestRunsMillerRabinRounds : Prop :=
  ∀ (rd : Reg) (k : Imm) (s : State),
    (24 ≤ rd.toNat → exec (.mrtest rd k) s = .next (takeFault .width (encode (.mrtest rd k)) s)) ∧
    (rd.toNat < 24 → s.x rd < 3 → exec (.mrtest rd k) s = .next (takeFault .range (encode (.mrtest rd k)) s)) ∧
    (rd.toNat < 24 → 3 ≤ s.x rd → s.tabActive rd = true →
      exec (.mrtest rd k) s = .next (takeFault .tabactive (encode (.mrtest rd k)) s)) ∧
    (rd.toNat < 24 → 3 ≤ s.x rd → s.tabActive rd = false →
      let n := s.x rd
      let x := witnessOf n s.draws
      ∃ t, exec (.mrtest rd k) s = .next t ∧ KeepsRegs s t [] ∧ KeepsTabs s t [rd] ∧ KeepsBytes s t 0 0 ∧
        KeepsControlButBusy s t ∧
        (k = 0 → t.tabActive rd = false ∧ t.run = none ∧ t.flags = { s.flags with tf := true } ∧ KeepsDraws s t) ∧
        (k ≠ 0 → ¬ (1 < x ∧ x < n) →
          t.run = some (.mrtest rd k.toNat) ∧ t.tabActive rd = true ∧ t.flags = s.flags ∧
            t.draws = s.draws.afterOneDraw) ∧
        (k ≠ 0 → 1 < x → x < n → n % 2 = 1 → ¬ StrongProbablePrime n x →
          t.tabActive rd = false ∧ t.run = none ∧ t.flags = { s.flags with tf := false } ∧
            t.draws = s.draws.afterOneDraw) ∧
        (k ≠ 0 → 1 < x → x < n → n % 2 = 1 → StrongProbablePrime n x →
          exec (.mrtest rd (k - 1)) { s with draws := s.draws.afterOneDraw } = .next t) ∧
        (k ≠ 0 → 1 < x → x < n → Nat.gcd x n ≠ 1 →
          t.tabActive rd = false ∧ t.run = none ∧ t.flags = { s.flags with tf := false }))

/-- R159: MRTEST never rejects a prime, whatever the words drawn, when it completes at once or after any retry. -/
def Obligations.MrtestAcceptsEveryPrime : Prop :=
  (∀ (rd : Reg) (k : Imm) (s t : State), rd.toNat < 24 → s.tabActive rd = false → (s.x rd).Prime → 3 ≤ s.x rd →
    exec (.mrtest rd k) s = .next t → t.run = none → t.tf = true) ∧
  ∀ (rd : Reg) (k : Nat) (s : State), rd.toNat < 24 → s.run = some (.mrtest rd k) → (s.x rd).Prime → 3 ≤ s.x rd →
    (coreWork s).run = none → (coreWork s).tf = true

/-- R151, R153, R154, R155: one attempt of the search for a prime: the candidate is the draw with its top bit (and, at full
width, its low bit) forced; one that fails the screen, or a round, is dropped; one whose witness is out of range is kept; one
that passes three rounds is found. A round draws one witness and is passed exactly by a strong probable prime to it. The
search for a pair is two searches one after the other. The steps at a retry are the model's choice (log entry 2). -/
def Obligations.PrimeSearchFollowsTheRetryLoop : Prop :=
  (∀ (n k : Nat) (d : Draws), 3 ≤ n → n < 2 ^ 1024 → n % 2 = 1 →
    let x := witnessOf n d
    millerRabin n 0 d = (.prime, d) ∧
      (¬ (1 < x ∧ x < n) → millerRabin n (k + 1) d = (.redraw (k + 1), d.afterOneDraw)) ∧
      (1 < x → x < n → ¬ StrongProbablePrime n x → millerRabin n (k + 1) d = (.composite, d.afterOneDraw)) ∧
      (1 < x → x < n → StrongProbablePrime n x → millerRabin n (k + 1) d = millerRabin n k d.afterOneDraw)) ∧
  (∀ (r : Nat) (c : Option Candidate) (d d' : Draws),
    (∀ q, searchPrime .half c d = (.found q, d') →
      searchPair (some r) c d = (.found r q, d') ∧ searchPair none c d = searchPair (some q) none d') ∧
    ∀ c', searchPrime .half c d = (.retry c', d') →
      searchPair (some r) c d = (.retry (some r) c', d') ∧ searchPair none c d = (.retry none c', d')) ∧
  ∀ (kind : PrimeKind) (d : Draws),
    let c := candidateOf kind (randFill 1024 d).1
    (kind = .full → c % 2 = 1 ∧ 2 ^ 1023 ≤ c ∧ c < 2 ^ 1024 ∧
      ∀ j, 0 < j → j < 1023 → c.testBit j = ((randFill 1024 d).1).testBit j) ∧
    (kind = .half → 2 ^ 511 ≤ c ∧ c < 2 ^ 512 ∧ ∀ j, j < 511 → c.testBit j = ((randFill 1024 d).1).testBit j) ∧
    (kind = .full → screened kind c = trialDiv c) ∧ (kind = .half → screened kind c = (decide (c % 4 = 3) && trialDiv c)) ∧
    (screened kind c = false → searchPrime kind none d = (.retry none, d.afterOneDraw)) ∧
    (screened kind c = true →
      searchPrime kind none d = searchPrime kind (some { value := c, rounds := 3 }) d.afterOneDraw) ∧
    ∀ (n k : Nat) (d' : Draws),
      ((millerRabin n k d).1 = .prime → d' = (millerRabin n k d).2 →
        searchPrime kind (some { value := n, rounds := k }) d = (.found n, d')) ∧
      ((millerRabin n k d).1 = .composite → d' = (millerRabin n k d).2 →
        searchPrime kind (some { value := n, rounds := k }) d = (.retry none, d')) ∧
      (∀ j, (millerRabin n k d).1 = .redraw j → d' = (millerRabin n k d).2 →
        searchPrime kind (some { value := n, rounds := k }) d = (.retry (some { value := n, rounds := j }), d'))

/-- R153: GENPRIME's faults; and it writes the prime its search finds, or stays in the CORE at a retry with nothing
written. -/
def Obligations.GenprimeWritesTheFoundPrime : Prop :=
  ∀ (rd : Reg) (s : State),
    (24 ≤ rd.toNat → exec (.genprime rd) s = .next (takeFault .width (encode (.genprime rd)) s)) ∧
    (rd.toNat < 24 → s.tabActive rd = true →
      exec (.genprime rd) s = .next (takeFault .tabactive (encode (.genprime rd)) s)) ∧
    (rd.toNat < 24 → s.tabActive rd = false →
      ∃ t, exec (.genprime rd) s = .next t ∧
        (∀ p, (searchPrime .full none s.draws).1 = .found p →
          t.x rd = p ∧ FullShape p ∧ t.run = none ∧ KeepsRegs s t [rd]) ∧
        (∀ c, (searchPrime .full none s.draws).1 = .retry c →
          t.run = some (.genprime rd c) ∧ KeepsRegs s t []) ∧
        t.draws = (searchPrime .full none s.draws).2 ∧ t.flags = s.flags ∧ KeepsTabs s t [] ∧ KeepsBytes s t 0 0 ∧
        KeepsControlButBusy s t)

/-- R155, R156: GENBLUM and GENBLUMN, each on its own: their faults, and the product (for GENBLUM also the two primes) that
they write when their search ends, or nothing at a retry; from one state they use the same words and write the same product.
The steps at a retry are the model's choice (log entry 2). -/
def Obligations.GenblumWritesTheProductOfTwoPrimes : Prop :=
  (∀ (rd : Reg) (s : State),
    (24 ≤ rd.toNat → exec (.genblumn rd) s = .next (takeFault .width (encode (.genblumn rd)) s)) ∧
    (rd.toNat < 24 → s.tabActive rd = true →
      exec (.genblumn rd) s = .next (takeFault .tabactive (encode (.genblumn rd)) s)) ∧
    (rd.toNat < 24 → s.tabActive rd = false →
      ∃ u, exec (.genblumn rd) s = .next u ∧
        (∀ p q, (searchPair none none s.draws).1 = .found p q →
          HalfShape p ∧ HalfShape q ∧ u.x rd = p * q ∧ 2 ^ 1022 ≤ u.x rd ∧ u.run = none ∧ KeepsRegs s u [rd]) ∧
        (∀ f c, (searchPair none none s.draws).1 = .retry f c →
          u.run = some (.blum (.genblumn rd) f c) ∧ KeepsRegs s u []) ∧
        u.draws = (searchPair none none s.draws).2 ∧ u.flags = s.flags ∧ KeepsTabs s u [] ∧ KeepsBytes s u 0 0 ∧
        KeepsControlButBusy s u)) ∧
  ∀ (rd ra rb : Reg) (s : State), rd ≠ ra → rd ≠ rb → ra ≠ rb →
    (24 ≤ rd.toNat ∨ 24 ≤ ra.toNat ∨ 24 ≤ rb.toNat →
      exec (.genblum rd ra rb) s = .next (takeFault .width (encode (.genblum rd ra rb)) s)) ∧
    (rd.toNat < 24 → ra.toNat < 24 → rb.toNat < 24 →
      s.tabActive rd = true ∨ s.tabActive ra = true ∨ s.tabActive rb = true →
      exec (.genblum rd ra rb) s = .next (takeFault .tabactive (encode (.genblum rd ra rb)) s)) ∧
    (rd.toNat < 24 → ra.toNat < 24 → rb.toNat < 24 → s.tabActive rd = false → s.tabActive ra = false →
      s.tabActive rb = false →
      ∃ t, exec (.genblum rd ra rb) s = .next t ∧
        (∀ p q, (searchPair none none s.draws).1 = .found p q →
          HalfShape p ∧ HalfShape q ∧ t.x ra = p ∧ t.x rb = q ∧ t.x rd = p * q ∧ 2 ^ 1022 ≤ t.x rd ∧ t.run = none ∧
            KeepsRegs s t [rd, ra, rb]) ∧
        (∀ f c, (searchPair none none s.draws).1 = .retry f c →
          t.run = some (.blum (.genblum rd ra rb) f c) ∧ KeepsRegs s t []) ∧
        t.draws = (searchPair none none s.draws).2 ∧ t.flags = s.flags ∧ KeepsTabs s t [] ∧ KeepsBytes s t 0 0 ∧
        KeepsControlButBusy s t ∧
        ∀ u, exec (.genblumn rd) s = .next u → u.draws = t.draws ∧ (u.run = none → t.run = none ∧ u.x rd = t.x rd))

/-- R157: the binary method of GCD computes the greatest common divisor, the zero cases included. -/
def Obligations.GcdIsTheGreatestCommonDivisor : Prop :=
  ∀ (rd ra rb : Reg) (s : State),
    (¬ (regLen rd = regLen ra ∧ regLen ra = regLen rb) →
      exec (.gcd rd ra rb) s = .next (takeFault .width (encode (.gcd rd ra rb)) s)) ∧
    (regLen rd = regLen ra → regLen ra = regLen rb → s.tabActive rd = true →
      exec (.gcd rd ra rb) s = .next (takeFault .tabactive (encode (.gcd rd ra rb)) s)) ∧
    (regLen rd = regLen ra → regLen ra = regLen rb → s.tabActive rd = false →
      ∃ t, exec (.gcd rd ra rb) s = .next t ∧ t.x rd = Nat.gcd (s.x ra) (s.x rb) ∧ t.flags = s.flags ∧
        OnlyRegs s t [rd])

/-- R159: whatever retries came before, a value that GENPRIME leaves has its top and low bit set and no small prime factor,
and the primes of GENBLUM, GENBLUMN and KEYGEN are 3 modulo 4, of 512 bits, and have none either; and each of these values
has passed three Miller–Rabin rounds with the witnesses drawn after it, however many turns the command took. The steps at a
retry are the model's choice (log entry 2). -/
def Obligations.GeneratedValuesPassTrialDivision : Prop :=
  (∀ s : State, Inv s →
    (∀ rd c, s.run = some (.genprime rd c) → (coreWork s).run = none → FullShape ((coreWork s).x rd)) ∧
    (∀ rd ra rb f c, s.run = some (.blum (.genblum rd ra rb) f c) → (coreWork s).run = none →
      HalfShape ((coreWork s).x ra) ∧ HalfShape ((coreWork s).x rb) ∧
        (coreWork s).x rd = (coreWork s).x ra * (coreWork s).x rb) ∧
    (∀ rd f c, s.run = some (.blum (.genblumn rd) f c) → (coreWork s).run = none →
      ∃ p q, HalfShape p ∧ HalfShape q ∧ (coreWork s).x rd = p * q) ∧
    (∀ f c, s.run = some (.blum .keygen f c) → (coreWork s).run = none →
      KeysHeld (coreWork s) ∧ (coreWork s).pstate = .keysGenerated)) ∧
  ∀ (s t : State) (m : Nat), (coreWork^[m] t).run = none →
    (∀ rd : Reg, rd.toNat < 24 → s.tabActive rd = false → exec (.genprime rd) s = .next t →
      GeneratedFrom .full ((coreWork^[m] t).x rd) s.draws (coreWork^[m] t).draws) ∧
    (∀ rd ra rb : Reg, pairwiseDifferent rd ra rb = true → rd.toNat < 24 → ra.toNat < 24 → rb.toNat < 24 →
      s.tabActive rd = false → s.tabActive ra = false → s.tabActive rb = false → exec (.genblum rd ra rb) s = .next t →
      ∃ d, GeneratedFrom .half ((coreWork^[m] t).x ra) s.draws d ∧
        GeneratedFrom .half ((coreWork^[m] t).x rb) d (coreWork^[m] t).draws) ∧
    (∀ rd : Reg, rd.toNat < 24 → s.tabActive rd = false → exec (.genblumn rd) s = .next t →
      ∃ p q d, GeneratedFrom .half p s.draws d ∧ GeneratedFrom .half q d (coreWork^[m] t).draws ∧
        (coreWork^[m] t).x rd = p * q) ∧
    (s.pstate = .uninitialized ∨ s.pstate = .finalized → s.tabActive 16 = false → s.tabActive 17 = false →
      s.tabActive 18 = false → exec .keygen s = .next t →
      ∃ d, GeneratedFrom .half ((coreWork^[m] t).x 17) s.draws d ∧
        GeneratedFrom .half ((coreWork^[m] t).x 18) d (coreWork^[m] t).draws)

/-! ## The protocol (spec/45_esrabin_protocol.md) -/

/-- R181: KEYGEN's faults; and when its search ends it writes `KP`, `KQ` and `KN = KP*KQ`, opens their three tables and
goes to KeysGenerated; until then nothing of it shows. -/
def Obligations.KeygenWritesAKeyPair : Prop :=
  ∀ s : State,
    (¬ (s.pstate = .uninitialized ∨ s.pstate = .finalized) →
      exec .keygen s = .next (takeFault .pstate (encode .keygen) s)) ∧
    (s.pstate = .uninitialized ∨ s.pstate = .finalized →
      s.tabActive 16 = true ∨ s.tabActive 17 = true ∨ s.tabActive 18 = true →
      exec .keygen s = .next (takeFault .tabactive (encode .keygen) s)) ∧
    (s.pstate = .uninitialized ∨ s.pstate = .finalized → s.tabActive 16 = false → s.tabActive 17 = false →
      s.tabActive 18 = false →
      ∃ t, exec .keygen s = .next t ∧
        (∀ p q, (searchPair none none s.draws).1 = .found p q →
          t.x 17 = p ∧ t.x 18 = q ∧ t.x 16 = p * q ∧ HalfShape p ∧ HalfShape q ∧
            t.tabActive 16 = true ∧ t.tabActive 17 = true ∧ t.tabActive 18 = true ∧
            TableInv t 16 ∧ TableInv t 17 ∧ TableInv t 18 ∧ t.flags = { s.flags with pstate := .keysGenerated } ∧
            t.run = none) ∧
        (∀ f c, (searchPair none none s.draws).1 = .retry f c →
          t.run = some (.blum .keygen f c) ∧ KeepsRegs s t [] ∧ KeepsTabs s t [] ∧ t.flags = s.flags) ∧
        t.draws = (searchPair none none s.draws).2 ∧ KeepsRegs s t [16, 17, 18] ∧ KeepsTabs s t [16, 17, 18] ∧
        KeepsBytes s t 0 0 ∧ KeepsControlButBusy s t)

/-- R182, R183: SIGN's faults; and for keys as KEYGEN writes them, one randomizer is drawn and hashed with the message: if
the hash is a residue for both primes, the randomizer and Garner's root are written and the state is KeysGenerated;
otherwise the command stays in state Signing with nothing written. -/
def Obligations.SignWritesTheSignature : Prop :=
  ∀ (a : Imm) (s : State),
    (s.pstate ≠ .keysGenerated → exec (.sign a) s = .next (takeFault .pstate (encode (.sign a)) s)) ∧
    (s.pstate = .keysGenerated → a.toNat + s.len.toNat > Config.bufSize →
      exec (.sign a) s = .next (takeFault .bufrange (encode (.sign a)) s)) ∧
    (s.pstate = .keysGenerated → a.toNat + s.len.toNat ≤ Config.bufSize →
      s.tabActive 19 = true ∨ s.tabActive 20 = true →
      exec (.sign a) s = .next (takeFault .tabactive (encode (.sign a)) s)) ∧
    (s.pstate = .keysGenerated → a.toNat + s.len.toNat ≤ Config.bufSize →
      s.tabActive 19 = false → s.tabActive 20 = false →
      KeysHeld s → TableInv s 17 → TableInv s 18 →
      let r := (randFill 1024 s.draws).1
      let h := messageHash s a.toNat r
      ∃ t, exec (.sign a) s = .next t ∧
        (ResidueForBoth (s.x 17) (s.x 18) h →
          t.x 19 = r ∧ t.x 20 = garnerRoot (s.x 17) (s.x 18) h ∧ t.flags = s.flags ∧ t.run = none ∧
            KeepsRegs s t [19, 20]) ∧
        (¬ ResidueForBoth (s.x 17) (s.x 18) h →
          t.flags = { s.flags with pstate := .signing } ∧ t.run = some (.sign a) ∧ KeepsRegs s t []) ∧
        t.draws = s.draws.afterOneDraw ∧ KeepsTabs s t [] ∧ KeepsBytes s t 0 0 ∧ KeepsControlButBusy s t)

/-- R184: VERIFY's faults; and for keys as KEYGEN writes them, TF tells whether `SB < KN` and `SB^2 mod KN` is the hash of
the message and `SR`. A bad signature is no fault. -/
def Obligations.VerifyChecksTheSquare : Prop :=
  ∀ (a : Imm) (s : State),
    (s.pstate ≠ .keysGenerated → exec (.verify a) s = .next (takeFault .pstate (encode (.verify a)) s)) ∧
    (s.pstate = .keysGenerated → a.toNat + s.len.toNat > Config.bufSize →
      exec (.verify a) s = .next (takeFault .bufrange (encode (.verify a)) s)) ∧
    (s.pstate = .keysGenerated → a.toNat + s.len.toNat ≤ Config.bufSize → KeysHeld s → TableInv s 16 →
      ∃ t, exec (.verify a) s = .next t ∧
        t.flags = { s.flags with
          tf := decide (s.x 20 < s.x 16 ∧ s.x 20 ^ 2 % s.x 16 = messageHash s a.toNat (s.x 19)) } ∧
        OnlyRegs s t [])

/-- R185: KEYFIN closes the three key tables, goes to Finalized, and leaves every register. -/
def Obligations.KeyfinClosesTheKeyTables : Prop :=
  ∀ s : State,
    (s.pstate ≠ .keysGenerated → exec .keyfin s = .next (takeFault .pstate (encode .keyfin) s)) ∧
    (s.pstate = .keysGenerated →
      ∃ t, exec .keyfin s = .next t ∧ t.tabActive 16 = false ∧ t.tabActive 17 = false ∧ t.tabActive 18 = false ∧
        t.flags = { s.flags with pstate := .finalized } ∧ KeepsRegs s t [] ∧ KeepsTabs s t [16, 17, 18] ∧
        KeepsBytes s t 0 0 ∧ KeepsDraws s t ∧ KeepsControl s t)

/-- R183, R186: for distinct primes that are 3 modulo 4 and a hash that is a residue for both, Garner's root is below
`p*q` and its square is the hash modulo `p*q`. -/
def Obligations.GarnerRootSquaresToTheHash : Prop :=
  ∀ p q h : Nat, p.Prime → q.Prime → p ≠ q → p % 4 = 3 → q % 4 = 3 → ResidueForBoth p q h →
    garnerRoot p q h < p * q ∧ garnerRoot p q h ^ 2 % (p * q) = h % (p * q)

/-- R186: if the key registers hold distinct primes that are 3 modulo 4, of 257 to 512 bits, and their product, with their
tables open, then a SIGN that has completed, at once or after retries, is accepted by VERIFY of the same message. -/
def Obligations.SignedMessageVerifies : Prop :=
  ∀ (a : Imm) (s t : State),
    (s.x 17).Prime → (s.x 18).Prime → s.x 17 ≠ s.x 18 → s.x 17 % 4 = 3 → s.x 18 % 4 = 3 →
    2 ^ 256 ≤ s.x 17 → s.x 17 < 2 ^ 512 → 2 ^ 256 ≤ s.x 18 → s.x 18 < 2 ^ 512 → s.x 16 = s.x 17 * s.x 18 →
    (∀ r, r = 16 ∨ r = 17 ∨ r = 18 → s.tabActive r = true ∧ TableInv s r) →
    s.tabActive 19 = false → s.tabActive 20 = false → a.toNat + s.len.toNat ≤ Config.bufSize →
    (s.pstate = .keysGenerated ∧ exec (.sign a) s = .next t) ∨
      (s.pstate = .signing ∧ s.run = some (.sign a) ∧ coreWork s = t) →
      t.run = some (.sign a) ∨ ∃ u, exec (.verify a) t = .next u ∧ u.tf = true

/-! ## The whole machine -/

/-- R15: no command changes the value of a register whose table is active when it is given, nor does a command that goes on
after a retry one whose table is active then (log entry 2). -/
def Obligations.ProtectedRegistersAreNeverWritten : Prop :=
  (∀ (i : Instr) (s t : State) (r : Reg), exec i s = .next t → s.tabActive r = true → t.x r = s.x r) ∧
  ∀ (s : State) (r : Reg), Inv s → s.tabActive r = true → (coreWork s).x r = s.x r

/-- R21: which commands write which flags, at once or when they go on after a retry (log entry 2). -/
def Obligations.FlagsAreWrittenOnlyByTheirCommands : Prop :=
  (∀ (i : Instr) (s t : State), exec i s = .next t →
    ((∀ rd ra, i ≠ .add rd ra) → t.cf = s.cf) ∧ ((∀ ra rb, i ≠ .cmp ra rb) → t.cmpr = s.cmpr) ∧
      ((∀ rd n, i ≠ .getbit rd n ∧ i ≠ .tdiv rd ∧ i ≠ .mrtest rd n ∧ i ≠ .verify n) → t.tf = s.tf) ∧
      ((∀ rd n, i ≠ .ldhex rd n) → t.warn = s.warn ∧ t.cerr = s.cerr) ∧
      ((∀ n, i ≠ .keygen ∧ i ≠ .sign n ∧ i ≠ .verify n ∧ i ≠ .keyfin) → t.pstate = s.pstate)) ∧
  ∀ s : State,
    (coreWork s).cf = s.cf ∧ (coreWork s).cmpr = s.cmpr ∧ (coreWork s).warn = s.warn ∧ (coreWork s).cerr = s.cerr ∧
      ((∀ rd k, s.run ≠ some (.mrtest rd k)) → (coreWork s).tf = s.tf) ∧
      ((∀ f c, s.run ≠ some (.blum .keygen f c)) → (∀ a, s.run ≠ some (.sign a)) → (coreWork s).pstate = s.pstate)

/-- R21: no command reads CF, CMPR, TF, WARN or CERR, at once or when it goes on after a retry (log entry 2): from two states
that differ in them only, the next states differ in them only, and each of the five is left with one value in both or
unchanged in both. -/
def Obligations.FlagsAreNeverInputs : Prop :=
  (∀ (i : Instr) (s s' t t' : State), AgreeButFlags s s' → exec i s = .next t → exec i s' = .next t' →
    AgreeButFlags t t' ∧ FlagsWrittenAlike s s' t t') ∧
  ∀ s s' : State, AgreeButFlags s s' →
    AgreeButFlags (coreWork s) (coreWork s') ∧ FlagsWrittenAlike s s' (coreWork s) (coreWork s')

/-- R180: the transitions of the protocol state: a command or the sequencer changes it only along the table of R180. -/
def Obligations.ProtocolStateFollowsItsTable : Prop :=
  (∀ (i : Instr) (s t : State), exec i s = .next t → t.pstate ≠ s.pstate →
    (i = .keygen ∧ (s.pstate = .uninitialized ∨ s.pstate = .finalized) ∧ t.pstate = .keysGenerated) ∨
      ((∃ a, i = .sign a) ∧ s.pstate = .keysGenerated ∧ t.pstate = .signing) ∨
      (i = .keyfin ∧ s.pstate = .keysGenerated ∧ t.pstate = .finalized)) ∧
  ∀ s : State, Inv s → (coreWork s).pstate ≠ s.pstate →
    (coreWork s).pstate = .keysGenerated ∧ (coreWork s).run = none ∧
      ((∃ f c, s.run = some (.blum .keygen f c)) ∨ ∃ a, s.run = some (.sign a))

/-- The invariant holds after reset. -/
def Obligations.ResetMeetsTheInvariant : Prop := Inv State.reset

/-- R12, R18, R23, R180: every step keeps the invariant: open tables hold their modulus's powers, the keys are held between
KEYGEN and KEYFIN, a running command still meets its conditions, the fault record is consistent, and BUF is canonical. -/
def Obligations.EveryStepKeepsTheInvariant : Prop :=
  ∀ s t : State, Inv s → step s = .next t → Inv t
end

