-- ==== Sys2Proof/Laws/Encoding.lean ====
section
/-! SUPPORT. The fields of the words the encoder builds, and what each decoding form answers. -/

namespace Sys2Proof

/-! ## Fields of a format R word -/

theorem opcodeField_wordR {op : Nat} (h : op < 64) (rd ra rb rc : Reg) : opcodeField (wordR op rd ra rb rc) = op := by
  simp [wordR, opcodeField, wordField]; omega

theorem rdField_wordR (op : Nat) (rd ra rb rc : Reg) : rdField (wordR op rd ra rb rc) = rd := by
  apply BitVec.eq_of_toNat_eq; simp [wordR, rdField, wordField]; omega

theorem raField_wordR (op : Nat) (rd ra rb rc : Reg) : raField (wordR op rd ra rb rc) = ra := by
  apply BitVec.eq_of_toNat_eq; simp [wordR, raField, wordField]; omega

theorem rbField_wordR (op : Nat) (rd ra rb rc : Reg) : rbField (wordR op rd ra rb rc) = rb := by
  apply BitVec.eq_of_toNat_eq; simp [wordR, rbField, wordField]; omega

theorem rcField_wordR (op : Nat) (rd ra rb rc : Reg) : rcField (wordR op rd ra rb rc) = rc := by
  apply BitVec.eq_of_toNat_eq; simp [wordR, rcField, wordField]; omega

theorem bitsZero_wordR_low6 (op : Nat) (rd ra rb rc : Reg) : bitsZero (wordR op rd ra rb rc) 0 6 = true := by
  simp [wordR, bitsZero]; omega

/-! ## Fields of a format I word -/

theorem opcodeField_wordI {op : Nat} (h : op < 64) (rd : Reg) (imm : Imm) : opcodeField (wordI op rd imm) = op := by
  simp [wordI, opcodeField, wordField]; omega

theorem rdField_wordI (op : Nat) (rd : Reg) (imm : Imm) : rdField (wordI op rd imm) = rd := by
  apply BitVec.eq_of_toNat_eq; simp [wordI, rdField, wordField]; omega

theorem immField_wordI (op : Nat) (rd : Reg) (imm : Imm) : immField (wordI op rd imm) = imm := by
  apply BitVec.eq_of_toNat_eq; simp [wordI, immField, wordField]; omega

theorem bitsZero_wordI_16_5 (op : Nat) (rd : Reg) (imm : Imm) : bitsZero (wordI op rd imm) 16 5 = true := by
  simp [wordI, bitsZero]; omega

/-! ## What a decoding form answers -/

theorem requireZero_ok {zero : Bool} {i j : Instr} (h : requireZero zero i = .ok j) : zero = true ∧ j = i := by
  unfold requireZero at h
  split at h
  · rename_i hz; cases h; exact ⟨hz, rfl⟩
  · cases h

end Sys2Proof
end

