-- ==== Sys2Proof/Laws/Operands.lean ====
section
/-! SUPPORT. Lemmas about the operand forms: lengths, positions, byte and digit lists, blocks. -/

namespace Sys2Proof.Machine

@[simp] theorem evalFirst_eq {α : Type} (n : Nat) (f : Nat → α) : evalFirst n f = f n := by
  cases n <;> rfl

theorem regLen_eq (r : Reg) : regLen r = if r.toNat < 24 then 1024 else 2048 := by
  simp [regLen, isSingle, Config.lenS, Config.lenD]

theorem regLen_of_single {r : Reg} (h : isSingle r = true) : regLen r = 1024 := by
  simp [regLen, h, Config.lenS]

theorem regLen_of_double {r : Reg} (h : isSingle r = false) : regLen r = 2048 := by
  simp [regLen, h, Config.lenD]

theorem regLen_cases (r : Reg) : regLen r = 1024 ∨ regLen r = 2048 := by
  rw [regLen_eq]; split <;> simp

theorem blockWidths_single : blockWidths 1024 = List.replicate 34 30 ++ [4] := rfl

theorem blockWidths_double : blockWidths 2048 = List.replicate 68 30 ++ [8] := rfl

@[simp] theorem splitBlocks_length (ws : List Nat) (v : Nat) : (splitBlocks ws v).length = ws.length := by
  induction ws generalizing v with
  | nil => rfl
  | cons w ws ih => simp [splitBlocks, ih]

@[simp] theorem bytesBe_length (v n : Nat) : (bytesBe v n).length = n := by
  induction n with
  | zero => rfl
  | succ n ih => simp [bytesBe, ih]

@[simp] theorem hexString_length (v n : Nat) : (hexString v n).length = n := by
  induction n with
  | zero => rfl
  | succ n ih => simp [hexString, ih]

theorem bitlen_pos {v : Nat} (h : v ≠ 0) : bitlen v = msbOf v + 1 := by simp [bitlen, h]

theorem lt_two_pow_bitlen (v : Nat) : v < 2 ^ bitlen v := by
  unfold bitlen msbOf
  split
  · subst_vars; simp
  · exact Nat.lt_log2_self

theorem two_pow_msbOf_le {v : Nat} (h : v ≠ 0) : 2 ^ msbOf v ≤ v := Nat.log2_self_le h

/-- A power of two comes out of the trailing zeros, whatever the fuel. -/
theorem two_pow_trailingZeros_dvd (fuel v : Nat) : 2 ^ trailingZeros fuel v ∣ v := by
  induction fuel generalizing v with
  | zero => simp [trailingZeros]
  | succ fuel ih =>
    unfold trailingZeros
    split
    · rename_i h
      obtain ⟨k, hk⟩ := ih (v / 2)
      refine ⟨k, ?_⟩
      have : v = 2 * (v / 2) := by omega
      rw [pow_succ, mul_comm (2 ^ _) 2, mul_assoc, ← hk]
      exact this
    · simp

/-- With enough fuel what is left after the trailing zeros is odd. -/
theorem div_two_pow_trailingZeros_odd (fuel v : Nat) (hv : v ≠ 0) (hf : v < 2 ^ fuel) :
    v / 2 ^ trailingZeros fuel v % 2 = 1 := by
  induction fuel generalizing v with
  | zero => simp at hf; exact absurd hf hv
  | succ fuel ih =>
    unfold trailingZeros
    split
    · rename_i h
      rw [pow_succ, mul_comm, ← Nat.div_div_eq_div_mul]
      exact ih (v / 2) (by omega) (by rw [pow_succ] at hf; omega)
    · simp; omega

/-- `v = d * 2^v2(v)` with `d` odd. -/
theorem v2_spec {v : Nat} (h : v ≠ 0) : 2 ^ v2 v ∣ v ∧ (v >>> v2 v) % 2 = 1 := by
  refine ⟨two_pow_trailingZeros_dvd _ _, ?_⟩
  rw [Nat.shiftRight_eq_div_pow]
  exact div_two_pow_trailingZeros_odd _ _ h (lt_two_pow_bitlen v)

end Sys2Proof.Machine
end

