-- ==== Sys2Proof/Laws/State.lean ====
section
/-! SUPPORT. One lemma for each field of State under each named update, true by unfolding, so that no later proof unfolds
a record update; and the reads of registers, tables and bytes under the updates that do not touch them. -/

namespace Sys2Proof.Machine

variable (s : State)


/-! ### setCf -/

@[simp] theorem State.setCf_xs (c : Bool) : (s.setCf c).xs = s.xs := rfl
@[simp] theorem State.setCf_xd (c : Bool) : (s.setCf c).xd = s.xd := rfl
@[simp] theorem State.setCf_tabs (c : Bool) : (s.setCf c).tabs = s.tabs := rfl
@[simp] theorem State.setCf_buf (c : Bool) : (s.setCf c).buf = s.buf := rfl
@[simp] theorem State.setCf_len (c : Bool) : (s.setCf c).len = s.len := rfl
@[simp] theorem State.setCf_fault (c : Bool) : (s.setCf c).fault = s.fault := rfl
@[simp] theorem State.setCf_cf (c : Bool) : (s.setCf c).cf = c := rfl
@[simp] theorem State.setCf_cmpr (c : Bool) : (s.setCf c).cmpr = s.cmpr := rfl
@[simp] theorem State.setCf_tf (c : Bool) : (s.setCf c).tf = s.tf := rfl
@[simp] theorem State.setCf_warn (c : Bool) : (s.setCf c).warn = s.warn := rfl
@[simp] theorem State.setCf_cerr (c : Bool) : (s.setCf c).cerr = s.cerr := rfl
@[simp] theorem State.setCf_pstate (c : Bool) : (s.setCf c).pstate = s.pstate := rfl
@[simp] theorem State.setCf_fcause (c : Bool) : (s.setCf c).fcause = s.fcause := rfl
@[simp] theorem State.setCf_fcmd (c : Bool) : (s.setCf c).fcmd = s.fcmd := rfl
@[simp] theorem State.setCf_run (c : Bool) : (s.setCf c).run = s.run := rfl
@[simp] theorem State.setCf_agenda (c : Bool) : (s.setCf c).agenda = s.agenda := rfl
@[simp] theorem State.setCf_hostData (c : Bool) : (s.setCf c).hostData = s.hostData := rfl
@[simp] theorem State.setCf_draws (c : Bool) : (s.setCf c).draws = s.draws := rfl
@[simp] theorem State.setCf_bufEpoch (c : Bool) : (s.setCf c).bufEpoch = s.bufEpoch := rfl
@[simp] theorem State.setCf_x (c : Bool) (r : Reg) : (s.setCf c).x r = s.x r := rfl
@[simp] theorem State.setCf_tab (c : Bool) (r : Reg) : (s.setCf c).tab r = s.tab r := rfl
@[simp] theorem State.setCf_tabActive (c : Bool) (r : Reg) : (s.setCf c).tabActive r = s.tabActive r := rfl
@[simp] theorem State.setCf_byte (c : Bool) (k : Nat) : (s.setCf c).byte k = s.byte k := rfl

/-! ### setCmpr -/

@[simp] theorem State.setCmpr_xs (c : Cmpr) : (s.setCmpr c).xs = s.xs := rfl
@[simp] theorem State.setCmpr_xd (c : Cmpr) : (s.setCmpr c).xd = s.xd := rfl
@[simp] theorem State.setCmpr_tabs (c : Cmpr) : (s.setCmpr c).tabs = s.tabs := rfl
@[simp] theorem State.setCmpr_buf (c : Cmpr) : (s.setCmpr c).buf = s.buf := rfl
@[simp] theorem State.setCmpr_len (c : Cmpr) : (s.setCmpr c).len = s.len := rfl
@[simp] theorem State.setCmpr_fault (c : Cmpr) : (s.setCmpr c).fault = s.fault := rfl
@[simp] theorem State.setCmpr_cf (c : Cmpr) : (s.setCmpr c).cf = s.cf := rfl
@[simp] theorem State.setCmpr_cmpr (c : Cmpr) : (s.setCmpr c).cmpr = c := rfl
@[simp] theorem State.setCmpr_tf (c : Cmpr) : (s.setCmpr c).tf = s.tf := rfl
@[simp] theorem State.setCmpr_warn (c : Cmpr) : (s.setCmpr c).warn = s.warn := rfl
@[simp] theorem State.setCmpr_cerr (c : Cmpr) : (s.setCmpr c).cerr = s.cerr := rfl
@[simp] theorem State.setCmpr_pstate (c : Cmpr) : (s.setCmpr c).pstate = s.pstate := rfl
@[simp] theorem State.setCmpr_fcause (c : Cmpr) : (s.setCmpr c).fcause = s.fcause := rfl
@[simp] theorem State.setCmpr_fcmd (c : Cmpr) : (s.setCmpr c).fcmd = s.fcmd := rfl
@[simp] theorem State.setCmpr_run (c : Cmpr) : (s.setCmpr c).run = s.run := rfl
@[simp] theorem State.setCmpr_agenda (c : Cmpr) : (s.setCmpr c).agenda = s.agenda := rfl
@[simp] theorem State.setCmpr_hostData (c : Cmpr) : (s.setCmpr c).hostData = s.hostData := rfl
@[simp] theorem State.setCmpr_draws (c : Cmpr) : (s.setCmpr c).draws = s.draws := rfl
@[simp] theorem State.setCmpr_bufEpoch (c : Cmpr) : (s.setCmpr c).bufEpoch = s.bufEpoch := rfl
@[simp] theorem State.setCmpr_x (c : Cmpr) (r : Reg) : (s.setCmpr c).x r = s.x r := rfl
@[simp] theorem State.setCmpr_tab (c : Cmpr) (r : Reg) : (s.setCmpr c).tab r = s.tab r := rfl
@[simp] theorem State.setCmpr_tabActive (c : Cmpr) (r : Reg) : (s.setCmpr c).tabActive r = s.tabActive r := rfl
@[simp] theorem State.setCmpr_byte (c : Cmpr) (k : Nat) : (s.setCmpr c).byte k = s.byte k := rfl

/-! ### setTf -/

@[simp] theorem State.setTf_xs (b : Bool) : (s.setTf b).xs = s.xs := rfl
@[simp] theorem State.setTf_xd (b : Bool) : (s.setTf b).xd = s.xd := rfl
@[simp] theorem State.setTf_tabs (b : Bool) : (s.setTf b).tabs = s.tabs := rfl
@[simp] theorem State.setTf_buf (b : Bool) : (s.setTf b).buf = s.buf := rfl
@[simp] theorem State.setTf_len (b : Bool) : (s.setTf b).len = s.len := rfl
@[simp] theorem State.setTf_fault (b : Bool) : (s.setTf b).fault = s.fault := rfl
@[simp] theorem State.setTf_cf (b : Bool) : (s.setTf b).cf = s.cf := rfl
@[simp] theorem State.setTf_cmpr (b : Bool) : (s.setTf b).cmpr = s.cmpr := rfl
@[simp] theorem State.setTf_tf (b : Bool) : (s.setTf b).tf = b := rfl
@[simp] theorem State.setTf_warn (b : Bool) : (s.setTf b).warn = s.warn := rfl
@[simp] theorem State.setTf_cerr (b : Bool) : (s.setTf b).cerr = s.cerr := rfl
@[simp] theorem State.setTf_pstate (b : Bool) : (s.setTf b).pstate = s.pstate := rfl
@[simp] theorem State.setTf_fcause (b : Bool) : (s.setTf b).fcause = s.fcause := rfl
@[simp] theorem State.setTf_fcmd (b : Bool) : (s.setTf b).fcmd = s.fcmd := rfl
@[simp] theorem State.setTf_run (b : Bool) : (s.setTf b).run = s.run := rfl
@[simp] theorem State.setTf_agenda (b : Bool) : (s.setTf b).agenda = s.agenda := rfl
@[simp] theorem State.setTf_hostData (b : Bool) : (s.setTf b).hostData = s.hostData := rfl
@[simp] theorem State.setTf_draws (b : Bool) : (s.setTf b).draws = s.draws := rfl
@[simp] theorem State.setTf_bufEpoch (b : Bool) : (s.setTf b).bufEpoch = s.bufEpoch := rfl
@[simp] theorem State.setTf_x (b : Bool) (r : Reg) : (s.setTf b).x r = s.x r := rfl
@[simp] theorem State.setTf_tab (b : Bool) (r : Reg) : (s.setTf b).tab r = s.tab r := rfl
@[simp] theorem State.setTf_tabActive (b : Bool) (r : Reg) : (s.setTf b).tabActive r = s.tabActive r := rfl
@[simp] theorem State.setTf_byte (b : Bool) (k : Nat) : (s.setTf b).byte k = s.byte k := rfl

/-! ### setHexFlags -/

@[simp] theorem State.setHexFlags_xs (w e : Bool) : (s.setHexFlags w e).xs = s.xs := rfl
@[simp] theorem State.setHexFlags_xd (w e : Bool) : (s.setHexFlags w e).xd = s.xd := rfl
@[simp] theorem State.setHexFlags_tabs (w e : Bool) : (s.setHexFlags w e).tabs = s.tabs := rfl
@[simp] theorem State.setHexFlags_buf (w e : Bool) : (s.setHexFlags w e).buf = s.buf := rfl
@[simp] theorem State.setHexFlags_len (w e : Bool) : (s.setHexFlags w e).len = s.len := rfl
@[simp] theorem State.setHexFlags_fault (w e : Bool) : (s.setHexFlags w e).fault = s.fault := rfl
@[simp] theorem State.setHexFlags_cf (w e : Bool) : (s.setHexFlags w e).cf = s.cf := rfl
@[simp] theorem State.setHexFlags_cmpr (w e : Bool) : (s.setHexFlags w e).cmpr = s.cmpr := rfl
@[simp] theorem State.setHexFlags_tf (w e : Bool) : (s.setHexFlags w e).tf = s.tf := rfl
@[simp] theorem State.setHexFlags_warn (w e : Bool) : (s.setHexFlags w e).warn = w := rfl
@[simp] theorem State.setHexFlags_cerr (w e : Bool) : (s.setHexFlags w e).cerr = e := rfl
@[simp] theorem State.setHexFlags_pstate (w e : Bool) : (s.setHexFlags w e).pstate = s.pstate := rfl
@[simp] theorem State.setHexFlags_fcause (w e : Bool) : (s.setHexFlags w e).fcause = s.fcause := rfl
@[simp] theorem State.setHexFlags_fcmd (w e : Bool) : (s.setHexFlags w e).fcmd = s.fcmd := rfl
@[simp] theorem State.setHexFlags_run (w e : Bool) : (s.setHexFlags w e).run = s.run := rfl
@[simp] theorem State.setHexFlags_agenda (w e : Bool) : (s.setHexFlags w e).agenda = s.agenda := rfl
@[simp] theorem State.setHexFlags_hostData (w e : Bool) : (s.setHexFlags w e).hostData = s.hostData := rfl
@[simp] theorem State.setHexFlags_draws (w e : Bool) : (s.setHexFlags w e).draws = s.draws := rfl
@[simp] theorem State.setHexFlags_bufEpoch (w e : Bool) : (s.setHexFlags w e).bufEpoch = s.bufEpoch := rfl
@[simp] theorem State.setHexFlags_x (w e : Bool) (r : Reg) : (s.setHexFlags w e).x r = s.x r := rfl
@[simp] theorem State.setHexFlags_tab (w e : Bool) (r : Reg) : (s.setHexFlags w e).tab r = s.tab r := rfl
@[simp] theorem State.setHexFlags_tabActive (w e : Bool) (r : Reg) : (s.setHexFlags w e).tabActive r = s.tabActive r :=
  rfl
@[simp] theorem State.setHexFlags_byte (w e : Bool) (k : Nat) : (s.setHexFlags w e).byte k = s.byte k := rfl

/-! ### setPstate -/

@[simp] theorem State.setPstate_xs (p : PState) : (s.setPstate p).xs = s.xs := rfl
@[simp] theorem State.setPstate_xd (p : PState) : (s.setPstate p).xd = s.xd := rfl
@[simp] theorem State.setPstate_tabs (p : PState) : (s.setPstate p).tabs = s.tabs := rfl
@[simp] theorem State.setPstate_buf (p : PState) : (s.setPstate p).buf = s.buf := rfl
@[simp] theorem State.setPstate_len (p : PState) : (s.setPstate p).len = s.len := rfl
@[simp] theorem State.setPstate_fault (p : PState) : (s.setPstate p).fault = s.fault := rfl
@[simp] theorem State.setPstate_cf (p : PState) : (s.setPstate p).cf = s.cf := rfl
@[simp] theorem State.setPstate_cmpr (p : PState) : (s.setPstate p).cmpr = s.cmpr := rfl
@[simp] theorem State.setPstate_tf (p : PState) : (s.setPstate p).tf = s.tf := rfl
@[simp] theorem State.setPstate_warn (p : PState) : (s.setPstate p).warn = s.warn := rfl
@[simp] theorem State.setPstate_cerr (p : PState) : (s.setPstate p).cerr = s.cerr := rfl
@[simp] theorem State.setPstate_pstate (p : PState) : (s.setPstate p).pstate = p := rfl
@[simp] theorem State.setPstate_fcause (p : PState) : (s.setPstate p).fcause = s.fcause := rfl
@[simp] theorem State.setPstate_fcmd (p : PState) : (s.setPstate p).fcmd = s.fcmd := rfl
@[simp] theorem State.setPstate_run (p : PState) : (s.setPstate p).run = s.run := rfl
@[simp] theorem State.setPstate_agenda (p : PState) : (s.setPstate p).agenda = s.agenda := rfl
@[simp] theorem State.setPstate_hostData (p : PState) : (s.setPstate p).hostData = s.hostData := rfl
@[simp] theorem State.setPstate_draws (p : PState) : (s.setPstate p).draws = s.draws := rfl
@[simp] theorem State.setPstate_bufEpoch (p : PState) : (s.setPstate p).bufEpoch = s.bufEpoch := rfl
@[simp] theorem State.setPstate_x (p : PState) (r : Reg) : (s.setPstate p).x r = s.x r := rfl
@[simp] theorem State.setPstate_tab (p : PState) (r : Reg) : (s.setPstate p).tab r = s.tab r := rfl
@[simp] theorem State.setPstate_tabActive (p : PState) (r : Reg) : (s.setPstate p).tabActive r = s.tabActive r := rfl
@[simp] theorem State.setPstate_byte (p : PState) (k : Nat) : (s.setPstate p).byte k = s.byte k := rfl

/-! ### setDraws -/

@[simp] theorem State.setDraws_xs (d : Draws) : (s.setDraws d).xs = s.xs := rfl
@[simp] theorem State.setDraws_xd (d : Draws) : (s.setDraws d).xd = s.xd := rfl
@[simp] theorem State.setDraws_tabs (d : Draws) : (s.setDraws d).tabs = s.tabs := rfl
@[simp] theorem State.setDraws_buf (d : Draws) : (s.setDraws d).buf = s.buf := rfl
@[simp] theorem State.setDraws_len (d : Draws) : (s.setDraws d).len = s.len := rfl
@[simp] theorem State.setDraws_fault (d : Draws) : (s.setDraws d).fault = s.fault := rfl
@[simp] theorem State.setDraws_cf (d : Draws) : (s.setDraws d).cf = s.cf := rfl
@[simp] theorem State.setDraws_cmpr (d : Draws) : (s.setDraws d).cmpr = s.cmpr := rfl
@[simp] theorem State.setDraws_tf (d : Draws) : (s.setDraws d).tf = s.tf := rfl
@[simp] theorem State.setDraws_warn (d : Draws) : (s.setDraws d).warn = s.warn := rfl
@[simp] theorem State.setDraws_cerr (d : Draws) : (s.setDraws d).cerr = s.cerr := rfl
@[simp] theorem State.setDraws_pstate (d : Draws) : (s.setDraws d).pstate = s.pstate := rfl
@[simp] theorem State.setDraws_fcause (d : Draws) : (s.setDraws d).fcause = s.fcause := rfl
@[simp] theorem State.setDraws_fcmd (d : Draws) : (s.setDraws d).fcmd = s.fcmd := rfl
@[simp] theorem State.setDraws_run (d : Draws) : (s.setDraws d).run = s.run := rfl
@[simp] theorem State.setDraws_agenda (d : Draws) : (s.setDraws d).agenda = s.agenda := rfl
@[simp] theorem State.setDraws_hostData (d : Draws) : (s.setDraws d).hostData = s.hostData := rfl
@[simp] theorem State.setDraws_draws (d : Draws) : (s.setDraws d).draws = d := rfl
@[simp] theorem State.setDraws_bufEpoch (d : Draws) : (s.setDraws d).bufEpoch = s.bufEpoch := rfl
@[simp] theorem State.setDraws_x (d : Draws) (r : Reg) : (s.setDraws d).x r = s.x r := rfl
@[simp] theorem State.setDraws_tab (d : Draws) (r : Reg) : (s.setDraws d).tab r = s.tab r := rfl
@[simp] theorem State.setDraws_tabActive (d : Draws) (r : Reg) : (s.setDraws d).tabActive r = s.tabActive r := rfl
@[simp] theorem State.setDraws_byte (d : Draws) (k : Nat) : (s.setDraws d).byte k = s.byte k := rfl

/-! ### keepRunning -/

@[simp] theorem State.keepRunning_xs (j : Job) : (s.keepRunning j).xs = s.xs := rfl
@[simp] theorem State.keepRunning_xd (j : Job) : (s.keepRunning j).xd = s.xd := rfl
@[simp] theorem State.keepRunning_tabs (j : Job) : (s.keepRunning j).tabs = s.tabs := rfl
@[simp] theorem State.keepRunning_buf (j : Job) : (s.keepRunning j).buf = s.buf := rfl
@[simp] theorem State.keepRunning_len (j : Job) : (s.keepRunning j).len = s.len := rfl
@[simp] theorem State.keepRunning_fault (j : Job) : (s.keepRunning j).fault = s.fault := rfl
@[simp] theorem State.keepRunning_cf (j : Job) : (s.keepRunning j).cf = s.cf := rfl
@[simp] theorem State.keepRunning_cmpr (j : Job) : (s.keepRunning j).cmpr = s.cmpr := rfl
@[simp] theorem State.keepRunning_tf (j : Job) : (s.keepRunning j).tf = s.tf := rfl
@[simp] theorem State.keepRunning_warn (j : Job) : (s.keepRunning j).warn = s.warn := rfl
@[simp] theorem State.keepRunning_cerr (j : Job) : (s.keepRunning j).cerr = s.cerr := rfl
@[simp] theorem State.keepRunning_pstate (j : Job) : (s.keepRunning j).pstate = s.pstate := rfl
@[simp] theorem State.keepRunning_fcause (j : Job) : (s.keepRunning j).fcause = s.fcause := rfl
@[simp] theorem State.keepRunning_fcmd (j : Job) : (s.keepRunning j).fcmd = s.fcmd := rfl
@[simp] theorem State.keepRunning_run (j : Job) : (s.keepRunning j).run = some j := rfl
@[simp] theorem State.keepRunning_agenda (j : Job) : (s.keepRunning j).agenda = s.agenda := rfl
@[simp] theorem State.keepRunning_hostData (j : Job) : (s.keepRunning j).hostData = s.hostData := rfl
@[simp] theorem State.keepRunning_draws (j : Job) : (s.keepRunning j).draws = s.draws := rfl
@[simp] theorem State.keepRunning_bufEpoch (j : Job) : (s.keepRunning j).bufEpoch = s.bufEpoch := rfl
@[simp] theorem State.keepRunning_x (j : Job) (r : Reg) : (s.keepRunning j).x r = s.x r := rfl
@[simp] theorem State.keepRunning_tab (j : Job) (r : Reg) : (s.keepRunning j).tab r = s.tab r := rfl
@[simp] theorem State.keepRunning_tabActive (j : Job) (r : Reg) : (s.keepRunning j).tabActive r = s.tabActive r := rfl
@[simp] theorem State.keepRunning_byte (j : Job) (k : Nat) : (s.keepRunning j).byte k = s.byte k := rfl

/-! ### finish -/

@[simp] theorem State.finish_xs : s.finish.xs = s.xs := rfl
@[simp] theorem State.finish_xd : s.finish.xd = s.xd := rfl
@[simp] theorem State.finish_tabs : s.finish.tabs = s.tabs := rfl
@[simp] theorem State.finish_buf : s.finish.buf = s.buf := rfl
@[simp] theorem State.finish_len : s.finish.len = s.len := rfl
@[simp] theorem State.finish_fault : s.finish.fault = s.fault := rfl
@[simp] theorem State.finish_cf : s.finish.cf = s.cf := rfl
@[simp] theorem State.finish_cmpr : s.finish.cmpr = s.cmpr := rfl
@[simp] theorem State.finish_tf : s.finish.tf = s.tf := rfl
@[simp] theorem State.finish_warn : s.finish.warn = s.warn := rfl
@[simp] theorem State.finish_cerr : s.finish.cerr = s.cerr := rfl
@[simp] theorem State.finish_pstate : s.finish.pstate = s.pstate := rfl
@[simp] theorem State.finish_fcause : s.finish.fcause = s.fcause := rfl
@[simp] theorem State.finish_fcmd : s.finish.fcmd = s.fcmd := rfl
@[simp] theorem State.finish_run : s.finish.run = none := rfl
@[simp] theorem State.finish_agenda : s.finish.agenda = s.agenda := rfl
@[simp] theorem State.finish_hostData : s.finish.hostData = s.hostData := rfl
@[simp] theorem State.finish_draws : s.finish.draws = s.draws := rfl
@[simp] theorem State.finish_bufEpoch : s.finish.bufEpoch = s.bufEpoch := rfl
@[simp] theorem State.finish_x (r : Reg) : s.finish.x r = s.x r := rfl
@[simp] theorem State.finish_tab (r : Reg) : s.finish.tab r = s.tab r := rfl
@[simp] theorem State.finish_tabActive (r : Reg) : s.finish.tabActive r = s.tabActive r := rfl
@[simp] theorem State.finish_byte (k : Nat) : s.finish.byte k = s.byte k := rfl

/-! ### memWrite -/

@[simp] theorem State.memWrite_xs (a : Nat) (l : List Byte) : (s.memWrite a l).xs = s.xs := rfl
@[simp] theorem State.memWrite_xd (a : Nat) (l : List Byte) : (s.memWrite a l).xd = s.xd := rfl
@[simp] theorem State.memWrite_tabs (a : Nat) (l : List Byte) : (s.memWrite a l).tabs = s.tabs := rfl
@[simp] theorem State.memWrite_buf (a : Nat) (l : List Byte) : (s.memWrite a l).buf = s.buf.insertList a l := rfl
@[simp] theorem State.memWrite_len (a : Nat) (l : List Byte) : (s.memWrite a l).len = s.len := rfl
@[simp] theorem State.memWrite_fault (a : Nat) (l : List Byte) : (s.memWrite a l).fault = s.fault := rfl
@[simp] theorem State.memWrite_cf (a : Nat) (l : List Byte) : (s.memWrite a l).cf = s.cf := rfl
@[simp] theorem State.memWrite_cmpr (a : Nat) (l : List Byte) : (s.memWrite a l).cmpr = s.cmpr := rfl
@[simp] theorem State.memWrite_tf (a : Nat) (l : List Byte) : (s.memWrite a l).tf = s.tf := rfl
@[simp] theorem State.memWrite_warn (a : Nat) (l : List Byte) : (s.memWrite a l).warn = s.warn := rfl
@[simp] theorem State.memWrite_cerr (a : Nat) (l : List Byte) : (s.memWrite a l).cerr = s.cerr := rfl
@[simp] theorem State.memWrite_pstate (a : Nat) (l : List Byte) : (s.memWrite a l).pstate = s.pstate := rfl
@[simp] theorem State.memWrite_fcause (a : Nat) (l : List Byte) : (s.memWrite a l).fcause = s.fcause := rfl
@[simp] theorem State.memWrite_fcmd (a : Nat) (l : List Byte) : (s.memWrite a l).fcmd = s.fcmd := rfl
@[simp] theorem State.memWrite_run (a : Nat) (l : List Byte) : (s.memWrite a l).run = s.run := rfl
@[simp] theorem State.memWrite_agenda (a : Nat) (l : List Byte) : (s.memWrite a l).agenda = s.agenda := rfl
@[simp] theorem State.memWrite_hostData (a : Nat) (l : List Byte) : (s.memWrite a l).hostData = s.hostData := rfl
@[simp] theorem State.memWrite_draws (a : Nat) (l : List Byte) : (s.memWrite a l).draws = s.draws := rfl
@[simp] theorem State.memWrite_bufEpoch (a : Nat) (l : List Byte) : (s.memWrite a l).bufEpoch = s.bufEpoch := rfl
@[simp] theorem State.memWrite_x (a : Nat) (l : List Byte) (r : Reg) : (s.memWrite a l).x r = s.x r := rfl
@[simp] theorem State.memWrite_tab (a : Nat) (l : List Byte) (r : Reg) : (s.memWrite a l).tab r = s.tab r := rfl
@[simp] theorem State.memWrite_tabActive (a : Nat) (l : List Byte) (r : Reg) : (s.memWrite a l).tabActive r = s.tabActive r :=
  rfl

/-! ### setX -/

@[simp] theorem State.setX_tabs (r : Reg) (v : Nat) : (s.setX r v).tabs = s.tabs :=
  by unfold State.setX; split <;> rfl
@[simp] theorem State.setX_buf (r : Reg) (v : Nat) : (s.setX r v).buf = s.buf :=
  by unfold State.setX; split <;> rfl
@[simp] theorem State.setX_len (r : Reg) (v : Nat) : (s.setX r v).len = s.len :=
  by unfold State.setX; split <;> rfl
@[simp] theorem State.setX_fault (r : Reg) (v : Nat) : (s.setX r v).fault = s.fault :=
  by unfold State.setX; split <;> rfl
@[simp] theorem State.setX_cf (r : Reg) (v : Nat) : (s.setX r v).cf = s.cf :=
  by unfold State.setX; split <;> rfl
@[simp] theorem State.setX_cmpr (r : Reg) (v : Nat) : (s.setX r v).cmpr = s.cmpr :=
  by unfold State.setX; split <;> rfl
@[simp] theorem State.setX_tf (r : Reg) (v : Nat) : (s.setX r v).tf = s.tf :=
  by unfold State.setX; split <;> rfl
@[simp] theorem State.setX_warn (r : Reg) (v : Nat) : (s.setX r v).warn = s.warn :=
  by unfold State.setX; split <;> rfl
@[simp] theorem State.setX_cerr (r : Reg) (v : Nat) : (s.setX r v).cerr = s.cerr :=
  by unfold State.setX; split <;> rfl
@[simp] theorem State.setX_pstate (r : Reg) (v : Nat) : (s.setX r v).pstate = s.pstate :=
  by unfold State.setX; split <;> rfl
@[simp] theorem State.setX_fcause (r : Reg) (v : Nat) : (s.setX r v).fcause = s.fcause :=
  by unfold State.setX; split <;> rfl
@[simp] theorem State.setX_fcmd (r : Reg) (v : Nat) : (s.setX r v).fcmd = s.fcmd :=
  by unfold State.setX; split <;> rfl
@[simp] theorem State.setX_run (r : Reg) (v : Nat) : (s.setX r v).run = s.run :=
  by unfold State.setX; split <;> rfl
@[simp] theorem State.setX_agenda (r : Reg) (v : Nat) : (s.setX r v).agenda = s.agenda :=
  by unfold State.setX; split <;> rfl
@[simp] theorem State.setX_hostData (r : Reg) (v : Nat) : (s.setX r v).hostData = s.hostData :=
  by unfold State.setX; split <;> rfl
@[simp] theorem State.setX_draws (r : Reg) (v : Nat) : (s.setX r v).draws = s.draws :=
  by unfold State.setX; split <;> rfl
@[simp] theorem State.setX_bufEpoch (r : Reg) (v : Nat) : (s.setX r v).bufEpoch = s.bufEpoch :=
  by unfold State.setX; split <;> rfl
@[simp] theorem State.setX_tab (r : Reg) (v : Nat) (q : Reg) : (s.setX r v).tab q = s.tab q :=
  by unfold State.setX; split <;> rfl
@[simp] theorem State.setX_tabActive (r : Reg) (v : Nat) (q : Reg) : (s.setX r v).tabActive q = s.tabActive q :=
  by unfold State.setX; split <;> rfl
@[simp] theorem State.setX_byte (r : Reg) (v : Nat) (k : Nat) : (s.setX r v).byte k = s.byte k :=
  by unfold State.setX; split <;> rfl

/-! ### setTab -/

@[simp] theorem State.setTab_xs (r : Reg) (t : Table) : (s.setTab r t).xs = s.xs :=
  by unfold State.setTab; split <;> rfl
@[simp] theorem State.setTab_xd (r : Reg) (t : Table) : (s.setTab r t).xd = s.xd :=
  by unfold State.setTab; split <;> rfl
@[simp] theorem State.setTab_buf (r : Reg) (t : Table) : (s.setTab r t).buf = s.buf :=
  by unfold State.setTab; split <;> rfl
@[simp] theorem State.setTab_len (r : Reg) (t : Table) : (s.setTab r t).len = s.len :=
  by unfold State.setTab; split <;> rfl
@[simp] theorem State.setTab_fault (r : Reg) (t : Table) : (s.setTab r t).fault = s.fault :=
  by unfold State.setTab; split <;> rfl
@[simp] theorem State.setTab_cf (r : Reg) (t : Table) : (s.setTab r t).cf = s.cf :=
  by unfold State.setTab; split <;> rfl
@[simp] theorem State.setTab_cmpr (r : Reg) (t : Table) : (s.setTab r t).cmpr = s.cmpr :=
  by unfold State.setTab; split <;> rfl
@[simp] theorem State.setTab_tf (r : Reg) (t : Table) : (s.setTab r t).tf = s.tf :=
  by unfold State.setTab; split <;> rfl
@[simp] theorem State.setTab_warn (r : Reg) (t : Table) : (s.setTab r t).warn = s.warn :=
  by unfold State.setTab; split <;> rfl
@[simp] theorem State.setTab_cerr (r : Reg) (t : Table) : (s.setTab r t).cerr = s.cerr :=
  by unfold State.setTab; split <;> rfl
@[simp] theorem State.setTab_pstate (r : Reg) (t : Table) : (s.setTab r t).pstate = s.pstate :=
  by unfold State.setTab; split <;> rfl
@[simp] theorem State.setTab_fcause (r : Reg) (t : Table) : (s.setTab r t).fcause = s.fcause :=
  by unfold State.setTab; split <;> rfl
@[simp] theorem State.setTab_fcmd (r : Reg) (t : Table) : (s.setTab r t).fcmd = s.fcmd :=
  by unfold State.setTab; split <;> rfl
@[simp] theorem State.setTab_run (r : Reg) (t : Table) : (s.setTab r t).run = s.run :=
  by unfold State.setTab; split <;> rfl
@[simp] theorem State.setTab_agenda (r : Reg) (t : Table) : (s.setTab r t).agenda = s.agenda :=
  by unfold State.setTab; split <;> rfl
@[simp] theorem State.setTab_hostData (r : Reg) (t : Table) : (s.setTab r t).hostData = s.hostData :=
  by unfold State.setTab; split <;> rfl
@[simp] theorem State.setTab_draws (r : Reg) (t : Table) : (s.setTab r t).draws = s.draws :=
  by unfold State.setTab; split <;> rfl
@[simp] theorem State.setTab_bufEpoch (r : Reg) (t : Table) : (s.setTab r t).bufEpoch = s.bufEpoch :=
  by unfold State.setTab; split <;> rfl
@[simp] theorem State.setTab_x (r : Reg) (t : Table) (q : Reg) : (s.setTab r t).x q = s.x q :=
  by unfold State.setTab; split <;> rfl
@[simp] theorem State.setTab_byte (r : Reg) (t : Table) (k : Nat) : (s.setTab r t).byte k = s.byte k :=
  by unfold State.setTab; split <;> rfl

/-! ### openTab -/

@[simp] theorem State.openTab_xs (r : Reg) : (s.openTab r).xs = s.xs :=
  State.setTab_xs s r _
@[simp] theorem State.openTab_xd (r : Reg) : (s.openTab r).xd = s.xd :=
  State.setTab_xd s r _
@[simp] theorem State.openTab_buf (r : Reg) : (s.openTab r).buf = s.buf :=
  State.setTab_buf s r _
@[simp] theorem State.openTab_len (r : Reg) : (s.openTab r).len = s.len :=
  State.setTab_len s r _
@[simp] theorem State.openTab_fault (r : Reg) : (s.openTab r).fault = s.fault :=
  State.setTab_fault s r _
@[simp] theorem State.openTab_cf (r : Reg) : (s.openTab r).cf = s.cf :=
  State.setTab_cf s r _
@[simp] theorem State.openTab_cmpr (r : Reg) : (s.openTab r).cmpr = s.cmpr :=
  State.setTab_cmpr s r _
@[simp] theorem State.openTab_tf (r : Reg) : (s.openTab r).tf = s.tf :=
  State.setTab_tf s r _
@[simp] theorem State.openTab_warn (r : Reg) : (s.openTab r).warn = s.warn :=
  State.setTab_warn s r _
@[simp] theorem State.openTab_cerr (r : Reg) : (s.openTab r).cerr = s.cerr :=
  State.setTab_cerr s r _
@[simp] theorem State.openTab_pstate (r : Reg) : (s.openTab r).pstate = s.pstate :=
  State.setTab_pstate s r _
@[simp] theorem State.openTab_fcause (r : Reg) : (s.openTab r).fcause = s.fcause :=
  State.setTab_fcause s r _
@[simp] theorem State.openTab_fcmd (r : Reg) : (s.openTab r).fcmd = s.fcmd :=
  State.setTab_fcmd s r _
@[simp] theorem State.openTab_run (r : Reg) : (s.openTab r).run = s.run :=
  State.setTab_run s r _
@[simp] theorem State.openTab_agenda (r : Reg) : (s.openTab r).agenda = s.agenda :=
  State.setTab_agenda s r _
@[simp] theorem State.openTab_hostData (r : Reg) : (s.openTab r).hostData = s.hostData :=
  State.setTab_hostData s r _
@[simp] theorem State.openTab_draws (r : Reg) : (s.openTab r).draws = s.draws :=
  State.setTab_draws s r _
@[simp] theorem State.openTab_bufEpoch (r : Reg) : (s.openTab r).bufEpoch = s.bufEpoch :=
  State.setTab_bufEpoch s r _
@[simp] theorem State.openTab_x (r q : Reg) : (s.openTab r).x q = s.x q :=
  State.setTab_x s r _ q
@[simp] theorem State.openTab_byte (r : Reg) (k : Nat) : (s.openTab r).byte k = s.byte k :=
  State.setTab_byte s r _ k

/-! ### closeTab -/

@[simp] theorem State.closeTab_xs (r : Reg) : (s.closeTab r).xs = s.xs :=
  State.setTab_xs s r _
@[simp] theorem State.closeTab_xd (r : Reg) : (s.closeTab r).xd = s.xd :=
  State.setTab_xd s r _
@[simp] theorem State.closeTab_buf (r : Reg) : (s.closeTab r).buf = s.buf :=
  State.setTab_buf s r _
@[simp] theorem State.closeTab_len (r : Reg) : (s.closeTab r).len = s.len :=
  State.setTab_len s r _
@[simp] theorem State.closeTab_fault (r : Reg) : (s.closeTab r).fault = s.fault :=
  State.setTab_fault s r _
@[simp] theorem State.closeTab_cf (r : Reg) : (s.closeTab r).cf = s.cf :=
  State.setTab_cf s r _
@[simp] theorem State.closeTab_cmpr (r : Reg) : (s.closeTab r).cmpr = s.cmpr :=
  State.setTab_cmpr s r _
@[simp] theorem State.closeTab_tf (r : Reg) : (s.closeTab r).tf = s.tf :=
  State.setTab_tf s r _
@[simp] theorem State.closeTab_warn (r : Reg) : (s.closeTab r).warn = s.warn :=
  State.setTab_warn s r _
@[simp] theorem State.closeTab_cerr (r : Reg) : (s.closeTab r).cerr = s.cerr :=
  State.setTab_cerr s r _
@[simp] theorem State.closeTab_pstate (r : Reg) : (s.closeTab r).pstate = s.pstate :=
  State.setTab_pstate s r _
@[simp] theorem State.closeTab_fcause (r : Reg) : (s.closeTab r).fcause = s.fcause :=
  State.setTab_fcause s r _
@[simp] theorem State.closeTab_fcmd (r : Reg) : (s.closeTab r).fcmd = s.fcmd :=
  State.setTab_fcmd s r _
@[simp] theorem State.closeTab_run (r : Reg) : (s.closeTab r).run = s.run :=
  State.setTab_run s r _
@[simp] theorem State.closeTab_agenda (r : Reg) : (s.closeTab r).agenda = s.agenda :=
  State.setTab_agenda s r _
@[simp] theorem State.closeTab_hostData (r : Reg) : (s.closeTab r).hostData = s.hostData :=
  State.setTab_hostData s r _
@[simp] theorem State.closeTab_draws (r : Reg) : (s.closeTab r).draws = s.draws :=
  State.setTab_draws s r _
@[simp] theorem State.closeTab_bufEpoch (r : Reg) : (s.closeTab r).bufEpoch = s.bufEpoch :=
  State.setTab_bufEpoch s r _
@[simp] theorem State.closeTab_x (r q : Reg) : (s.closeTab r).x q = s.x q :=
  State.setTab_x s r _ q
@[simp] theorem State.closeTab_byte (r : Reg) (k : Nat) : (s.closeTab r).byte k = s.byte k :=
  State.setTab_byte s r _ k

/-! ### takeFault -/

@[simp] theorem takeFault_xs (c : Cause) (w : Word) : (takeFault c w s).xs = s.xs := rfl
@[simp] theorem takeFault_xd (c : Cause) (w : Word) : (takeFault c w s).xd = s.xd := rfl
@[simp] theorem takeFault_tabs (c : Cause) (w : Word) : (takeFault c w s).tabs = s.tabs := rfl
@[simp] theorem takeFault_buf (c : Cause) (w : Word) : (takeFault c w s).buf = s.buf := rfl
@[simp] theorem takeFault_len (c : Cause) (w : Word) : (takeFault c w s).len = s.len := rfl
@[simp] theorem takeFault_fault (c : Cause) (w : Word) : (takeFault c w s).fault = true := rfl
@[simp] theorem takeFault_cf (c : Cause) (w : Word) : (takeFault c w s).cf = s.cf := rfl
@[simp] theorem takeFault_cmpr (c : Cause) (w : Word) : (takeFault c w s).cmpr = s.cmpr := rfl
@[simp] theorem takeFault_tf (c : Cause) (w : Word) : (takeFault c w s).tf = s.tf := rfl
@[simp] theorem takeFault_warn (c : Cause) (w : Word) : (takeFault c w s).warn = s.warn := rfl
@[simp] theorem takeFault_cerr (c : Cause) (w : Word) : (takeFault c w s).cerr = s.cerr := rfl
@[simp] theorem takeFault_pstate (c : Cause) (w : Word) : (takeFault c w s).pstate = s.pstate := rfl
@[simp] theorem takeFault_fcause (c : Cause) (w : Word) : (takeFault c w s).fcause = c := rfl
@[simp] theorem takeFault_fcmd (c : Cause) (w : Word) : (takeFault c w s).fcmd = w := rfl
@[simp] theorem takeFault_run (c : Cause) (w : Word) : (takeFault c w s).run = none := rfl
@[simp] theorem takeFault_agenda (c : Cause) (w : Word) : (takeFault c w s).agenda = s.agenda := rfl
@[simp] theorem takeFault_hostData (c : Cause) (w : Word) : (takeFault c w s).hostData = s.hostData := rfl
@[simp] theorem takeFault_draws (c : Cause) (w : Word) : (takeFault c w s).draws = s.draws := rfl
@[simp] theorem takeFault_bufEpoch (c : Cause) (w : Word) : (takeFault c w s).bufEpoch = s.bufEpoch := rfl
@[simp] theorem takeFault_x (c : Cause) (w : Word) (r : Reg) : (takeFault c w s).x r = s.x r := rfl
@[simp] theorem takeFault_tab (c : Cause) (w : Word) (r : Reg) : (takeFault c w s).tab r = s.tab r := rfl
@[simp] theorem takeFault_tabActive (c : Cause) (w : Word) (r : Reg) : (takeFault c w s).tabActive r = s.tabActive r :=
  rfl
@[simp] theorem takeFault_byte (c : Cause) (w : Word) (k : Nat) : (takeFault c w s).byte k = s.byte k := rfl

/-! ### resetCore -/

@[simp] theorem resetCore_xs : (resetCore s).xs = State.reset.xs := rfl
@[simp] theorem resetCore_xd : (resetCore s).xd = State.reset.xd := rfl
@[simp] theorem resetCore_tabs : (resetCore s).tabs = State.reset.tabs := rfl
@[simp] theorem resetCore_buf : (resetCore s).buf = State.reset.buf := rfl
@[simp] theorem resetCore_len : (resetCore s).len = State.reset.len := rfl
@[simp] theorem resetCore_fault : (resetCore s).fault = State.reset.fault := rfl
@[simp] theorem resetCore_cf : (resetCore s).cf = State.reset.cf := rfl
@[simp] theorem resetCore_cmpr : (resetCore s).cmpr = State.reset.cmpr := rfl
@[simp] theorem resetCore_tf : (resetCore s).tf = State.reset.tf := rfl
@[simp] theorem resetCore_warn : (resetCore s).warn = State.reset.warn := rfl
@[simp] theorem resetCore_cerr : (resetCore s).cerr = State.reset.cerr := rfl
@[simp] theorem resetCore_pstate : (resetCore s).pstate = State.reset.pstate := rfl
@[simp] theorem resetCore_fcause : (resetCore s).fcause = State.reset.fcause := rfl
@[simp] theorem resetCore_fcmd : (resetCore s).fcmd = State.reset.fcmd := rfl
@[simp] theorem resetCore_run : (resetCore s).run = State.reset.run := rfl
@[simp] theorem resetCore_agenda : (resetCore s).agenda = s.agenda := rfl
@[simp] theorem resetCore_hostData : (resetCore s).hostData = s.hostData := rfl
@[simp] theorem resetCore_draws : (resetCore s).draws = s.draws := rfl
@[simp] theorem resetCore_bufEpoch : (resetCore s).bufEpoch = s.bufEpoch + 1 := rfl

end Sys2Proof.Machine
end

