-- ==== Sys2Proof/Laws/Ops.lean ====
section
/-! SUPPORT. For each shared operation, one lemma that says what it can do: registers, tables, BUF and its canonical form,
the collaborators, faults and reset. -/

namespace Sys2Proof.Machine

/-! ## Registers -/

theorem State.x_lt (s : State) (r : Reg) : s.x r < 2 ^ regLen r := by
  unfold State.x
  split
  · rename_i h
    exact lt_of_lt_of_eq (s.xs[r.toNat]).isLt
      (congrArg _ (regLen_of_single (by simpa [isSingle] using h)).symm)
  · rename_i h
    exact lt_of_lt_of_eq (s.xd[r.toNat - 24]'(by have := r.isLt; omega)).isLt
      (congrArg _ (regLen_of_double (by simpa [isSingle] using h)).symm)

theorem reg_toNat_ne {q r : Reg} (h : q ≠ r) : q.toNat ≠ r.toNat := fun e => h (BitVec.eq_of_toNat_eq e)

/-- The register that is written holds the value modulo `2^len`. -/
theorem State.x_setX_self (s : State) (r : Reg) (v : Nat) : (s.setX r v).x r = v % 2 ^ regLen r := by
  unfold State.setX State.x
  split
  · rename_i h
    simp only [Vector.getElem_set_self, BitVec.toNat_ofNat, regLen_of_single (show isSingle r = true by simpa [isSingle] using h)]
  · rename_i h
    simp only [Vector.getElem_set_self, BitVec.toNat_ofNat,
      regLen_of_double (show isSingle r = false by simpa [isSingle] using h)]

/-- No other register changes. -/
theorem State.x_setX_ne (s : State) {q r : Reg} (v : Nat) (h : q ≠ r) : (s.setX r v).x q = s.x q := by
  have hn := reg_toNat_ne h
  unfold State.setX State.x
  by_cases hr : r.toNat < 24 <;> by_cases hq : q.toNat < 24 <;> simp only [hr, hq, ↓reduceDIte]
  · rw [Vector.getElem_set_ne _ _ (Ne.symm hn)]
  · rw [Vector.getElem_set_ne _ _ (by omega)]

theorem State.x_setX (s : State) (q r : Reg) (v : Nat) :
    (s.setX r v).x q = if q = r then v % 2 ^ regLen r else s.x q := by
  split
  · subst_vars; exact State.x_setX_self s _ v
  · rename_i h; exact State.x_setX_ne s v h

/-! ## Reduction tables -/

theorem State.tab_double (s : State) {r : Reg} (h : isSingle r = false) : s.tab r = Table.closed := by
  have h' : ¬ r.toNat < 24 := by simpa [isSingle] using h
  simp [State.tab, h']

theorem State.tabActive_double (s : State) {r : Reg} (h : isSingle r = false) : s.tabActive r = false := by
  simp [State.tabActive, s.tab_double h, Table.closed]

theorem State.tab_setTab (s : State) (q r : Reg) (t : Table) :
    (s.setTab r t).tab q = if q = r ∧ isSingle r = true then t else s.tab q := by
  have hn : q ≠ r → q.toNat ≠ r.toNat := reg_toNat_ne
  unfold State.setTab State.tab isSingle
  by_cases hr : r.toNat < 24 <;> by_cases hq : q.toNat < 24 <;> by_cases h : q = r <;> simp only [hr, hq, h, ↓reduceDIte]
  all_goals first
    | (subst h; simp)
    | (rw [Vector.getElem_set_ne _ _ (Ne.symm (hn h))]; simp)
    | simp

/-- What `openTab` leaves: the table of the register's value, if the register can have one. -/
theorem State.tab_openTab (s : State) (q r : Reg) :
    (s.openTab r).tab q = if q = r ∧ isSingle r = true then tableOf (s.x r) else s.tab q :=
  s.tab_setTab q r _

/-- What `closeTab` leaves: the same table, not active. -/
theorem State.tab_closeTab (s : State) (q r : Reg) :
    (s.closeTab r).tab q = if q = r ∧ isSingle r = true then { s.tab r with active := false } else s.tab q :=
  s.tab_setTab q r _

theorem State.tabActive_openTab (s : State) (q r : Reg) :
    (s.openTab r).tabActive q = (decide (q = r ∧ isSingle r = true) || s.tabActive q) := by
  unfold State.tabActive
  rw [s.tab_openTab]
  split <;> simp_all [tableOf]

theorem State.tabActive_closeTab (s : State) (q r : Reg) :
    (s.closeTab r).tabActive q = (!decide (q = r) && s.tabActive q) := by
  unfold State.tabActive
  rw [s.tab_closeTab]
  by_cases h : q = r
  · subst h
    by_cases hs : isSingle q = true
    · simp [hs]
    · simp [hs, s.tab_double (by simpa using hs), Table.closed]
  · simp [h]

@[simp] theorem tableOf_active (m : Nat) : (tableOf m).active = true := rfl
@[simp] theorem tableOf_msb (m : Nat) : (tableOf m).msb = msbOf m := rfl
@[simp] theorem tableOf_entries_length (m : Nat) : (tableOf m).entries.length = msbOf m + 1 := by simp [tableOf]

/-! ## The byte buffer -/

/-- A byte written is the one read there, and no other listed byte changes. -/
theorem Memory.lookup_insert (m : Memory) (a b : Nat) (v : Byte) :
    (m.insert a v).lookup b = if b = a then some v else m.lookup b := by
  induction m with
  | nil => simp [Memory.insert, Memory.lookup]
  | cons c m ih =>
    obtain ⟨d, w⟩ := c
    unfold Memory.insert
    by_cases h1 : a < d
    · simp [h1, Memory.lookup]
    · by_cases h2 : a = d
      · subst h2
        by_cases h : b = a <;> simp [Memory.lookup, h]
      · simp only [h1, h2, ↓reduceIte, Memory.lookup, ih]
        by_cases h : b = d
        · subst h; simp [Ne.symm h2]
        · simp [h]

theorem Memory.risingFrom_mono {lo lo' : Nat} {m : Memory} (h : lo' ≤ lo) (hm : m.risingFrom lo = true) :
    m.risingFrom lo' = true := by
  cases m with
  | nil => rfl
  | cons c m =>
    obtain ⟨d, w⟩ := c
    simp only [Memory.risingFrom, Bool.and_eq_true, decide_eq_true_eq] at hm ⊢
    exact ⟨by omega, hm.2⟩

theorem Memory.risingFrom_insert (m : Memory) (lo a : Nat) (v : Byte) (h : m.risingFrom lo = true) (ha : lo ≤ a) :
    (m.insert a v).risingFrom lo = true := by
  induction m generalizing lo with
  | nil => simp [Memory.insert, Memory.risingFrom, ha]
  | cons c m ih =>
    obtain ⟨d, w⟩ := c
    simp only [Memory.risingFrom, Bool.and_eq_true, decide_eq_true_eq] at h
    unfold Memory.insert
    split
    · simp only [Memory.risingFrom, Bool.and_eq_true, decide_eq_true_eq]
      exact ⟨ha, by omega, h.2⟩
    · split
      · subst_vars
        simp only [Memory.risingFrom, Bool.and_eq_true, decide_eq_true_eq]
        exact ⟨ha, h.2⟩
      · simp only [Memory.risingFrom, Bool.and_eq_true, decide_eq_true_eq]
        exact ⟨h.1, ih (d + 1) h.2 (by omega)⟩

/-- Every write keeps the canonical form. -/
theorem Memory.wf_insert (m : Memory) (a : Nat) (v : Byte) (h : m.wf = true) : (m.insert a v).wf = true :=
  m.risingFrom_insert 0 a v h (Nat.zero_le a)

theorem Memory.wf_insertList (bytes : List Byte) (m : Memory) (a : Nat) (h : m.wf = true) :
    (m.insertList a bytes).wf = true := by
  induction bytes generalizing m a with
  | nil => exact h
  | cons v vs ih => exact ih _ _ (m.wf_insert a v h)

theorem Memory.inBuf_insert (m : Memory) (a : Nat) (v : Byte) (h : m.inBuf = true) (ha : a < Config.bufSize) :
    (m.insert a v).inBuf = true := by
  induction m with
  | nil => simp [Memory.insert, Memory.inBuf, ha]
  | cons c m ih =>
    obtain ⟨d, w⟩ := c
    simp only [Memory.inBuf, List.all_cons, Bool.and_eq_true, decide_eq_true_eq] at h
    unfold Memory.insert
    split
    · simp only [Memory.inBuf, List.all_cons, Bool.and_eq_true, decide_eq_true_eq]
      exact ⟨ha, h⟩
    · split
      · simp only [Memory.inBuf, List.all_cons, Bool.and_eq_true, decide_eq_true_eq]
        exact ⟨ha, h.2⟩
      · simp only [Memory.inBuf, List.all_cons, Bool.and_eq_true, decide_eq_true_eq]
        exact ⟨h.1, ih h.2⟩

theorem Memory.inBuf_insertList (bytes : List Byte) (m : Memory) (a : Nat) (h : m.inBuf = true)
    (ha : a + bytes.length ≤ Config.bufSize) : (m.insertList a bytes).inBuf = true := by
  induction bytes generalizing m a with
  | nil => exact h
  | cons v vs ih =>
    simp only [List.length_cons] at ha
    exact ih _ _ (m.inBuf_insert a v h (by omega)) (by omega)

theorem Memory.lookup_insertList (bytes : List Byte) (m : Memory) (a b : Nat) :
    (m.insertList a bytes).lookup b = if h : a ≤ b ∧ b < a + bytes.length then some (bytes[b - a]'(by omega))
      else m.lookup b := by
  induction bytes generalizing m a with
  | nil => simp [Memory.insertList]
  | cons v vs ih =>
    rw [Memory.insertList, ih]
    by_cases h1 : a + 1 ≤ b ∧ b < a + 1 + vs.length
    · have h2 : a ≤ b ∧ b < a + (v :: vs).length := by simp only [List.length_cons]; omega
      rw [dif_pos h1, dif_pos h2]
      have : b - a = (b - (a + 1)) + 1 := by omega
      simp [this]
    · rw [dif_neg h1, Memory.lookup_insert]
      by_cases h3 : b = a
      · subst h3; simp
      · have h2 : ¬ (a ≤ b ∧ b < a + (v :: vs).length) := by simp only [List.length_cons]; omega
        rw [dif_neg h2, if_neg h3]

/-- What a byte of BUF reads as after a write of several bytes: the byte stored there, or what it read before. -/
theorem State.byte_memWrite (s : State) (a b : Nat) (bytes : List Byte) :
    (s.memWrite a bytes).byte b = if h : a ≤ b ∧ b < a + bytes.length then bytes[b - a]'(by omega) else s.byte b := by
  unfold State.byte
  simp only [State.memWrite_buf, State.memWrite_bufEpoch, Memory.lookup_insertList]
  split
  all_goals (rename_i h; split at h <;> simp_all)

@[simp] theorem State.memRead_length (s : State) (a n : Nat) : (s.memRead a n).length = n := by
  induction n generalizing a with
  | zero => rfl
  | succ n ih => simp [State.memRead, ih]

/-- The bytes read are the bytes of BUF at rising addresses. -/
theorem State.memRead_getElem (s : State) (a n j : Nat) (h : j < (s.memRead a n).length) :
    (s.memRead a n)[j] = s.byte (a + j) := by
  induction n generalizing a j with
  | zero => simp [State.memRead] at h
  | succ n ih =>
    cases j with
    | zero => simp [State.memRead]
    | succ j =>
      simp only [State.memRead, List.getElem_cons_succ]
      rw [ih]
      congr 1; omega

/-- Reading back what was just written. -/
theorem State.memRead_memWrite (s : State) (a : Nat) (bytes : List Byte) :
    (s.memWrite a bytes).memRead a bytes.length = bytes := by
  apply List.ext_getElem (by simp)
  intro j h1 h2
  rw [State.memRead_getElem, State.byte_memWrite, dif_pos ⟨by omega, by omega⟩]
  congr 1
  omega

/-! ## The collaborators and the unspecified values -/

/-- A word drawn moves the stream one position on, whatever answers it. -/
theorem Draws.word_rngPos (d : Draws) : d.word.2.rngPos = d.rngPos + 1 ∧ d.word.2.freePos = d.freePos := by
  unfold Draws.word
  split <;> simp

theorem Draws.unspecified_spec (len : Nat) (d : Draws) :
    (d.unspecified len).1 < 2 ^ len ∧ (d.unspecified len).2 = { d with freePos := d.freePos + 1 } :=
  ⟨Nat.mod_lt _ (by positivity), rfl⟩

/-- One word for each block, and each block below its width. -/
theorem fillBlocks_spec (ws : List Nat) (d : Draws) :
    (fillBlocks ws d).1.length = ws.length ∧ (fillBlocks ws d).2.rngPos = d.rngPos + ws.length ∧
      (fillBlocks ws d).2.freePos = d.freePos := by
  induction ws generalizing d with
  | nil => simp [fillBlocks]
  | cons w ws ih =>
    obtain ⟨h1, h2, h3⟩ := ih d.word.2
    have h := d.word_rngPos
    simp only [fillBlocks, List.length_cons, h1, h2, h3, h.1, h.2]
    exact ⟨trivial, by omega, trivial⟩

theorem randFill_single (d : Draws) :
    (randFill 1024 d).2.rngPos = d.rngPos + 35 ∧ (randFill 1024 d).2.freePos = d.freePos := by
  have h := fillBlocks_spec (blockWidths 1024) d
  exact ⟨h.2.1, h.2.2⟩

/-- Blocks of 30 bits, the last of `w` bits, make a value below `2^(30*n + w)`. -/
theorem fillBlocks_value_lt (n w : Nat) (d : Draws) :
    ofBlocks (fillBlocks (List.replicate n Config.blockBits ++ [w]) d).1 < 2 ^ (Config.blockBits * n + w) := by
  induction n generalizing d with
  | zero => simpa [fillBlocks, ofBlocks] using Nat.mod_lt _ (by positivity)
  | succ n ih =>
    simp only [List.replicate_succ, List.cons_append, fillBlocks, ofBlocks]
    have h1 : d.word.1.toNat % 2 ^ Config.blockBits < 2 ^ Config.blockBits := Nat.mod_lt _ (by positivity)
    have h2 := ih d.word.2
    rw [show Config.blockBits * (n + 1) + w = Config.blockBits + (Config.blockBits * n + w) by ring, pow_add]
    calc _ < 2 ^ Config.blockBits * (ofBlocks (fillBlocks (List.replicate n Config.blockBits ++ [w]) d.word.2).1 + 1) := by
          rw [mul_add, mul_one]; omega
      _ ≤ _ := Nat.mul_le_mul_left _ h2

/-- A filled single-width value is in range. -/
theorem randFill_lt (d : Draws) : (randFill 1024 d).1 < 2 ^ 1024 := fillBlocks_value_lt 34 4 d

theorem randFill_double (d : Draws) :
    (randFill 2048 d).2.rngPos = d.rngPos + 69 ∧ (randFill 2048 d).2.freePos = d.freePos := by
  have h := fillBlocks_spec (blockWidths 2048) d
  exact ⟨h.2.1, h.2.2⟩

/-! ## Faults -/

theorem firstCause_cons_true (c : Cause) (rest : List (Bool × Cause)) : firstCause ((true, c) :: rest) = some c := rfl

theorem firstCause_cons_false (c : Cause) (rest : List (Bool × Cause)) :
    firstCause ((false, c) :: rest) = firstCause rest := rfl

theorem firstCause_eq_none {checks : List (Bool × Cause)} (h : ∀ p ∈ checks, p.1 = false) : firstCause checks = none := by
  induction checks with
  | nil => rfl
  | cons p rest ih =>
    obtain ⟨b, c⟩ := p
    have hb : b = false := h (b, c) (by simp)
    subst hb
    exact ih fun q hq => h q (by simp [hq])

/-- No fault is taken exactly when no condition holds. -/
theorem firstCause_eq_none_iff (checks : List (Bool × Cause)) :
    firstCause checks = none ↔ ∀ p ∈ checks, p.1 = false := by
  induction checks with
  | nil => simp [firstCause]
  | cons p rest ih => obtain ⟨b, c⟩ := p; cases b <;> simp [firstCause, ih]

/-- What a guarded command can do: it takes the fault of a check that holds, or has its effect because none does. -/
theorem guarded_cases {checks : List (Bool × Cause)} {i : Instr} {s effect t : State}
    (h : guarded checks i s effect = .next t) :
    (∃ c, firstCause checks = some c ∧ t = takeFault c (encode i) s) ∨ (firstCause checks = none ∧ t = effect) := by
  unfold guarded at h
  split at h
  · rename_i c hc
    cases h
    exact .inl ⟨c, hc, rfl⟩
  · rename_i hc
    cases h
    exact .inr ⟨hc, rfl⟩

theorem guarded_of_some {checks : List (Bool × Cause)} {c : Cause} (h : firstCause checks = some c) (i : Instr)
    (s effect : State) : guarded checks i s effect = .next (takeFault c (encode i) s) := by
  simp [guarded, h]

theorem guarded_of_none {checks : List (Bool × Cause)} (h : firstCause checks = none) (i : Instr)
    (s effect : State) : guarded checks i s effect = .next effect := by
  simp [guarded, h]

end Sys2Proof.Machine
end

