-- ==== Sys2Proof/Laws/Running.lean ====
section
/-! SUPPORT. For each operation of the loops and of the host port, one lemma that says what it can do: the draws of EXP,
the rounds of Miller–Rabin, the searches, a command that goes on, the turns of the host. -/

namespace Sys2Proof.Machine

/-! ## Reduction, multiplication and exponentiation -/

/-- One turn of the Montgomery loop. -/
@[simp] theorem montLoop_succ (x y m n i : Nat) (acc : MontAcc) :
    montLoop x y m (n + 1) i acc = montLoop x y m n (i + 1) (montStep x y m i acc) := by simp [montLoop]

/-- A conditional addition adds to the number `hi*2^1024 + A` and keeps `A` in range. -/
theorem MontAcc.addIf_number (c : Bool) (v : Nat) {acc : MontAcc} (h : acc.a < 2 ^ 1024) :
    (acc.addIf c v).a < 2 ^ 1024 ∧
      (acc.addIf c v).hi * 2 ^ 1024 + (acc.addIf c v).a = acc.hi * 2 ^ 1024 + acc.a + c.toNat * v := by
  cases c
  · simpa [MontAcc.addIf] using h
  · refine ⟨Nat.mod_lt _ (by positivity), ?_⟩
    simp only [MontAcc.addIf, if_true, Bool.toNat_true, one_mul]
    generalize 2 ^ 1024 = B
    have := Nat.div_add_mod (acc.a + v) B
    nlinarith

/-- The shift halves the number `hi*2^1024 + A` and keeps `A` in range. -/
theorem MontAcc.shift_number {acc : MontAcc} (h : acc.a < 2 ^ 1024) :
    acc.shift.a < 2 ^ 1024 ∧ acc.shift.hi * 2 ^ 1024 + acc.shift.a = (acc.hi * 2 ^ 1024 + acc.a) / 2 := by
  have e : acc.a / 2 ||| (acc.hi % 2) <<< 1023 = acc.hi % 2 * 2 ^ 1023 + acc.a / 2 := by
    have h1 : acc.a / 2 < 2 ^ 1023 := by omega
    rw [Nat.lor_comm, Nat.shiftLeft_eq, mul_comm (acc.hi % 2), Nat.two_pow_add_eq_or_of_lt h1]
  simp only [MontAcc.shift, Nat.shiftRight_eq_div_pow _ 1, pow_one]
  rw [e]
  omega

@[simp] theorem powList_succ (mm : Nat → Nat → Nat) (b n p : Nat) :
    powList mm b (n + 1) p = p :: powList mm b n (mm p b) := by simp [powList]

@[simp] theorem squareTimes_succ (mm : Nat → Nat → Nat) (n acc : Nat) :
    squareTimes mm (n + 1) acc = squareTimes mm n (mm acc acc) := by simp [squareTimes]

@[simp] theorem powList_length (mm : Nat → Nat → Nat) (b n p : Nat) : (powList mm b n p).length = n := by
  induction n generalizing p with
  | zero => rfl
  | succ n ih => simp [ih]

/-- For an odd modulus EXP draws nothing. -/
theorem expDraw_odd (t : Table) (base e : Nat) {m : Nat} (d : Draws) (h : m % 2 = 1) :
    expDraw t base e m d = (windowExp t base e m, d) := by simp [expDraw, h]

/-- For an even modulus EXP writes a drawn value below `2^1024`, and one value is used up. -/
theorem expDraw_even (t : Table) (base e : Nat) {m : Nat} (d : Draws) (h : m % 2 = 0) :
    (expDraw t base e m d).1 < 2 ^ Config.lenS ∧
      (expDraw t base e m d).2 = { d with freePos := d.freePos + 1 } := by
  have := Draws.unspecified_spec Config.lenS d
  simp [expDraw, h, this]

/-- EXP never consumes a random word. -/
theorem expDraw_rngPos (t : Table) (base e m : Nat) (d : Draws) : (expDraw t base e m d).2.rngPos = d.rngPos := by
  unfold expDraw
  split
  · rw [(Draws.unspecified_spec _ d).2]
  · rfl

/-- The reduction of R122 is below its modulus. -/
theorem Table.reduce_lt (t : Table) {m : Nat} (v : Nat) (h : 0 < m) : t.reduce m v < m := Nat.mod_lt _ h

/-- What MULMONT gives is below its modulus. -/
theorem mulMont_lt (x y t : Nat) {m : Nat} (h : 0 < m) : mulMont x y m t < m := Nat.mod_lt _ h

/-- `entry[j]` of a fresh table. -/
theorem tableOf_entry {m j : Nat} (hm : 0 < m) (hl : m < 2 ^ 1024) (hj : j ≤ msbOf m) :
    (tableOf m).entry j = 2 ^ (msbOf m + j) % m := by
  have h : j < msbOf m + 1 := by omega
  simp only [Table.entry, tableOf, List.getD_eq_getElem?_getD, List.getElem?_map, List.getElem?_range h, Option.map_some,
    Option.getD_some, BitVec.toNat_ofNat]
  exact Nat.mod_eq_of_lt (lt_trans (Nat.mod_lt _ hm) hl)

/-! ## Miller–Rabin and the searches -/

/-- A redraw happens inside one of the rounds that are left. -/
theorem millerRabin_redraw {n k j : Nat} {d : Draws} (h : (millerRabin n k d).1 = .redraw j) : 1 ≤ j ∧ j ≤ k := by
  induction k generalizing d with
  | zero => simp [millerRabin] at h
  | succ k ih =>
    unfold millerRabin at h
    dsimp only at h
    split at h
    · split at h
      · have := ih h; omega
      · cases h
    · simp at h; omega

/-- With no round left the answer is "prime", and nothing is drawn. -/
@[simp] theorem millerRabin_zero (n : Nat) (d : Draws) : millerRabin n 0 d = (.prime, d) := rfl

/-- What a test of a candidate answers: the candidate itself, nothing, or the candidate with rounds left. -/
theorem testCandidate_cases (c : Candidate) (d : Draws) :
    (testCandidate c d).1 = .found c.value ∨ (testCandidate c d).1 = .retry none ∨
      ∃ k, 1 ≤ k ∧ k ≤ c.rounds ∧ (testCandidate c d).1 = .retry (some { value := c.value, rounds := k }) := by
  unfold testCandidate
  dsimp only
  split
  · exact .inl rfl
  · exact .inr (.inl rfl)
  · rename_i k hk
    have := millerRabin_redraw hk
    exact .inr (.inr ⟨k, this.1, this.2, rfl⟩)

/-! ## A command that goes on -/

/-- MRTEST that goes on: it ends with its table closed and TF written, or waits for another witness. -/
theorem resumeMrtest_cases (rd : Reg) (k : Nat) (s : State) :
    (∃ b d, resumeMrtest rd k s = (((s.closeTab rd).setTf b).setDraws d).finish) ∨
      ∃ k' d, 1 ≤ k' ∧ k' ≤ k ∧ resumeMrtest rd k s = (s.setDraws d).keepRunning (.mrtest rd k') := by
  unfold resumeMrtest
  dsimp only
  split
  · exact .inl ⟨_, _, rfl⟩
  · exact .inl ⟨_, _, rfl⟩
  · rename_i k' hk
    have := millerRabin_redraw hk
    exact .inr ⟨k', _, this.1, this.2, rfl⟩

/-- GENPRIME that goes on: it ends with the prime written, or waits at a retry. -/
theorem resumeGenprime_cases (rd : Reg) (c : Option Candidate) (s : State) :
    (∃ p, (searchPrime .full c s.draws).1 = .found p ∧
        resumeGenprime rd c s = ((s.setX rd p).setDraws (searchPrime .full c s.draws).2).finish) ∨
      ∃ c', (searchPrime .full c s.draws).1 = .retry c' ∧
        resumeGenprime rd c s = (s.setDraws (searchPrime .full c s.draws).2).keepRunning (.genprime rd c') := by
  unfold resumeGenprime
  dsimp only
  split
  · rename_i p hp; exact .inl ⟨p, hp, rfl⟩
  · rename_i c' hc; exact .inr ⟨c', hc, rfl⟩

/-- GENBLUM, GENBLUMN or KEYGEN that goes on: it ends with everything written, or waits at a retry. -/
theorem resumeBlum_cases (dest : BlumDest) (f : Option Nat) (c : Option Candidate) (s : State) :
    (∃ p q, (searchPair f c s.draws).1 = .found p q ∧
        resumeBlum dest f c s = ((storePrimes dest p q s).setDraws (searchPair f c s.draws).2).finish) ∨
      ∃ f' c', (searchPair f c s.draws).1 = .retry f' c' ∧
        resumeBlum dest f c s = (s.setDraws (searchPair f c s.draws).2).keepRunning (.blum dest f' c') := by
  unfold resumeBlum
  dsimp only
  split
  · rename_i p q h; exact .inl ⟨p, q, h, rfl⟩
  · rename_i f' c' h; exact .inr ⟨f', c', h, rfl⟩

/-- SIGN that goes on: it ends with SR and SB written and PSTATE back at KeysGenerated, or stays in Signing. -/
theorem resumeSign_cases (a : Imm) (s : State) :
    (∃ r b d, resumeSign a s =
        ((((s.setX regSR r).setX regSB b).setPstate .keysGenerated).setDraws d).finish) ∨
      ∃ d, resumeSign a s = ((s.setPstate .signing).setDraws d).keepRunning (.sign a) := by
  unfold resumeSign
  dsimp only
  split
  · exact .inl ⟨_, _, _, rfl⟩
  · exact .inr ⟨_, rfl⟩

/-! ## The host port -/

theorem takeTurn_nil {s : State} (h : s.agenda = []) : takeTurn s = .next (coreWork s) := by
  simp [takeTurn, hostAct, h]

theorem takeTurn_cons {s : State} {a : HostAction} {rest : List HostAction} (h : s.agenda = a :: rest) :
    takeTurn s = hostAct a { s with agenda := rest } := by
  simp [takeTurn, h]

@[simp] theorem portAddr_window {k : Nat} (h : k < 1024) : portAddr (0x400 + k) = .window k := by
  have : 0x400 ≤ 0x400 + k ∧ 0x400 + k < 0x400 + Config.bufSize / 4 := by simp [Config.bufSize]; omega
  simp [portAddr, this]

/-- Above the eight registers and outside the window an address is reserved. -/
theorem portAddr_reserved {a : Nat} (h : 8 ≤ a) (hw : a < 0x400 ∨ 0x400 + 1024 ≤ a) : portAddr a = .reserved := by
  have hn : ¬ (0x400 ≤ a ∧ a < 0x400 + Config.bufSize / 4) := by simp [Config.bufSize]; omega
  unfold portAddr
  rw [if_neg hn]
  split <;> first | omega | rfl

/-- The only address that is CTRL. -/
theorem portAddr_eq_ctrl {a : Nat} : portAddr a = .ctrl ↔ a = 5 := by
  constructor
  · intro h
    unfold portAddr at h
    split at h
    · cases h
    · split at h <;> first | rfl | cases h
  · rintro rfl; rfl

/-- A write to CMD that the CORE accepts starts the command. -/
theorem hostWrite_cmd {s : State} (v : Word) (hr : s.run = none) (hf : s.fault = false) :
    hostWrite 0 v s = startCommand v s := by
  have hc : portAddr 0 = .cmd := rfl
  simp [hostWrite, hc, State.busy, hr, hf]

end Sys2Proof.Machine
end

