-- ==== Sys2Proof/Laws/Frames.lean ====
section
/-! SUPPORT. The views of Safety.lean under the named updates: the flags, and what a command that writes registers only
leaves unchanged. -/

namespace Sys2Proof.Machine

variable (s : State)

@[simp] theorem State.setX_flags (r : Reg) (v : Nat) : (s.setX r v).flags = s.flags := by simp [State.flags]
@[simp] theorem State.setTab_flags (r : Reg) (t : Table) : (s.setTab r t).flags = s.flags := by simp [State.flags]
@[simp] theorem State.openTab_flags (r : Reg) : (s.openTab r).flags = s.flags := s.setTab_flags r _
@[simp] theorem State.closeTab_flags (r : Reg) : (s.closeTab r).flags = s.flags := s.setTab_flags r _
@[simp] theorem State.memWrite_flags (a : Nat) (bytes : List Byte) : (s.memWrite a bytes).flags = s.flags := rfl
@[simp] theorem State.setDraws_flags (d : Draws) : (s.setDraws d).flags = s.flags := rfl
@[simp] theorem State.keepRunning_flags (j : Job) : (s.keepRunning j).flags = s.flags := rfl
@[simp] theorem State.finish_flags : s.finish.flags = s.flags := rfl
@[simp] theorem takeFault_flags (c : Cause) (w : Word) : (takeFault c w s).flags = s.flags := rfl
@[simp] theorem State.setCf_flags (c : Bool) : (s.setCf c).flags = { s.flags with cf := c } := rfl
@[simp] theorem State.setCmpr_flags (c : Cmpr) : (s.setCmpr c).flags = { s.flags with cmpr := c } := rfl
@[simp] theorem State.setTf_flags (b : Bool) : (s.setTf b).flags = { s.flags with tf := b } := rfl
@[simp] theorem State.setHexFlags_flags (w e : Bool) :
    (s.setHexFlags w e).flags = { s.flags with warn := w, cerr := e } := rfl
@[simp] theorem State.setPstate_flags (p : PState) : (s.setPstate p).flags = { s.flags with pstate := p } := rfl

/-- A command that writes one register leaves the rest. -/
theorem onlyRegs_setX (r : Reg) (v : Nat) : OnlyRegs s (s.setX r v) [r] := by
  refine ⟨fun q hq => State.x_setX_ne s v (by simpa using hq), ?_⟩
  simp [KeepsTabs, KeepsBytes, KeepsDraws, KeepsControl]

/-- A command that writes one register and a flag leaves the rest. -/
theorem onlyRegs_setX_setCf (r : Reg) (v : Nat) (c : Bool) : OnlyRegs s ((s.setX r v).setCf c) [r] := by
  refine ⟨fun q hq => State.x_setX_ne s v (by simpa using hq), ?_⟩
  simp [KeepsTabs, KeepsBytes, KeepsDraws, KeepsControl]

/-- A command that writes TF only leaves the rest. -/
theorem onlyRegs_setTf (b : Bool) : OnlyRegs s (s.setTf b) [] := by
  simp [OnlyRegs, KeepsRegs, KeepsTabs, KeepsBytes, KeepsDraws, KeepsControl]

/-- A command that writes CMPR only leaves the rest. -/
theorem onlyRegs_setCmpr (c : Cmpr) : OnlyRegs s (s.setCmpr c) [] := by
  simp [OnlyRegs, KeepsRegs, KeepsTabs, KeepsBytes, KeepsDraws, KeepsControl]

/-- A table that is the table of its register's value meets the table invariant. -/
theorem tableInv_of_tableOf {s : State} {r : Reg} (h : s.tab r = tableOf (s.x r)) (hp : 0 < s.x r)
    (hl : s.x r < 2 ^ 1024) : TableInv s r := by
  intro _
  rw [h]
  exact ⟨hp, rfl, tableOf_entries_length _, fun j hj => tableOf_entry hp hl hj⟩

/-- A table that is not active meets the table invariant. -/
theorem tableInv_of_inactive {s : State} {r : Reg} (h : s.tabActive r = false) : TableInv s r := by
  intro hr
  rw [h] at hr
  cases hr

/-- A store changes the bytes it stores to, and no other byte. -/
theorem keepsBytes_memWrite (a : Nat) (bytes : List Byte) : KeepsBytes s (s.memWrite a bytes) a bytes.length := by
  intro b hb
  rw [State.byte_memWrite, dif_neg hb]

end Sys2Proof.Machine
end

