-- ==== Sys2Proof/Laws/PerInstr.lean ====
section
/-! SUPPORT. Statements made for each command: the opcode field of its word is the opcode of its row of
spec/30_encoding.md R64. -/

namespace Sys2Proof

/-- The opcode column of R64. -/
def opcodeOf : Instr → Nat
  | .add _ _ => 0x01
  | .sub _ _ => 0x02
  | .cmp _ _ => 0x03
  | .shl _ _ => 0x04
  | .shr _ _ => 0x05
  | .getbit _ _ => 0x06
  | .setbit _ _ => 0x07
  | .clrbit _ _ => 0x08
  | .copy _ _ => 0x09
  | .ldb _ _ => 0x0A
  | .stb _ _ => 0x0B
  | .ldhex _ _ => 0x0C
  | .sthex _ _ => 0x0D
  | .mulhalf _ _ _ => 0x0E
  | .rand _ => 0x0F
  | .tabinit _ => 0x10
  | .tabshut _ => 0x11
  | .mod _ _ => 0x12
  | .mulmont _ _ _ _ => 0x13
  | .exp _ _ _ _ => 0x14
  | .tdiv _ => 0x18
  | .mrtest _ _ => 0x19
  | .genprime _ => 0x1A
  | .genblum _ _ _ => 0x1B
  | .genblumn _ => 0x1C
  | .gcd _ _ _ => 0x1D
  | .keygen => 0x20
  | .sign _ => 0x21
  | .verify _ => 0x22
  | .keyfin => 0x23

namespace Laws.OpcodeField

/-- The word of `i` has the opcode of `i`'s row. -/
def Statement (i : Instr) : Prop := opcodeField (encode i) = opcodeOf i

theorem add (rd ra : Reg) : Statement (.add rd ra) := opcodeField_wordR (by decide) _ _ _ _
theorem sub (rd ra : Reg) : Statement (.sub rd ra) := opcodeField_wordR (by decide) _ _ _ _
theorem cmp (ra rb : Reg) : Statement (.cmp ra rb) := opcodeField_wordR (by decide) _ _ _ _
theorem shl (rd : Reg) (imm : Imm) : Statement (.shl rd imm) := opcodeField_wordI (by decide) _ _
theorem shr (rd : Reg) (imm : Imm) : Statement (.shr rd imm) := opcodeField_wordI (by decide) _ _
theorem getbit (rd : Reg) (imm : Imm) : Statement (.getbit rd imm) := opcodeField_wordI (by decide) _ _
theorem setbit (rd : Reg) (imm : Imm) : Statement (.setbit rd imm) := opcodeField_wordI (by decide) _ _
theorem clrbit (rd : Reg) (imm : Imm) : Statement (.clrbit rd imm) := opcodeField_wordI (by decide) _ _
theorem copy (rd ra : Reg) : Statement (.copy rd ra) := opcodeField_wordR (by decide) _ _ _ _
theorem ldb (rd : Reg) (imm : Imm) : Statement (.ldb rd imm) := opcodeField_wordI (by decide) _ _
theorem stb (rd : Reg) (imm : Imm) : Statement (.stb rd imm) := opcodeField_wordI (by decide) _ _
theorem ldhex (rd : Reg) (imm : Imm) : Statement (.ldhex rd imm) := opcodeField_wordI (by decide) _ _
theorem sthex (rd : Reg) (imm : Imm) : Statement (.sthex rd imm) := opcodeField_wordI (by decide) _ _
theorem mulhalf (rd ra rb : Reg) : Statement (.mulhalf rd ra rb) := opcodeField_wordR (by decide) _ _ _ _
theorem rand (rd : Reg) : Statement (.rand rd) := opcodeField_wordR (by decide) _ _ _ _
theorem tabinit (rd : Reg) : Statement (.tabinit rd) := opcodeField_wordR (by decide) _ _ _ _
theorem tabshut (rd : Reg) : Statement (.tabshut rd) := opcodeField_wordR (by decide) _ _ _ _
theorem mod (rd ra : Reg) : Statement (.mod rd ra) := opcodeField_wordR (by decide) _ _ _ _
theorem mulmont (rd ra rb rc : Reg) : Statement (.mulmont rd ra rb rc) := opcodeField_wordR (by decide) _ _ _ _
theorem exp (rd ra rb rc : Reg) : Statement (.exp rd ra rb rc) := opcodeField_wordR (by decide) _ _ _ _
theorem tdiv (rd : Reg) : Statement (.tdiv rd) := opcodeField_wordR (by decide) _ _ _ _
theorem mrtest (rd : Reg) (imm : Imm) : Statement (.mrtest rd imm) := opcodeField_wordI (by decide) _ _
theorem genprime (rd : Reg) : Statement (.genprime rd) := opcodeField_wordR (by decide) _ _ _ _
theorem genblum (rd ra rb : Reg) : Statement (.genblum rd ra rb) := opcodeField_wordR (by decide) _ _ _ _
theorem genblumn (rd : Reg) : Statement (.genblumn rd) := opcodeField_wordR (by decide) _ _ _ _
theorem gcd (rd ra rb : Reg) : Statement (.gcd rd ra rb) := opcodeField_wordR (by decide) _ _ _ _
theorem keygen : Statement (.keygen) := opcodeField_wordR (by decide) _ _ _ _
theorem sign (imm : Imm) : Statement (.sign imm) := opcodeField_wordI (by decide) _ _
theorem verify (imm : Imm) : Statement (.verify imm) := opcodeField_wordI (by decide) _ _
theorem keyfin : Statement (.keyfin) := opcodeField_wordR (by decide) _ _ _ _

end Laws.OpcodeField

end Sys2Proof
end

