-- ==== Sys2Proof/Tests/Slice0.lean ====
section
/-! SUPPORT. The tests of the model: WellFormed's refusals, a word of spec/ decoded for every command, one-step runs of the
vectors of spec/95_test_vectors.md, and for every statement with hypotheses a state and operands that meet them. -/

namespace Sys2Proof.Tests

set_option Elab.async false

open Sys2Proof.Machine

/-! ## Small states -/

/-- Registers written. -/
def withX (l : List (Reg × Nat)) (s : State) : State := l.foldl (fun s p => s.setX p.1 p.2) s

/-- A register written and its table opened. -/
def opened (r : Reg) (v : Nat) (s : State) : State := (s.setX r v).openTab r

/-- Bytes in BUF. -/
def withBytes (a : Nat) (bytes : List Byte) (s : State) : State := s.memWrite a bytes

/-- The next words of the random-word stream. -/
def fed (words : List Word) (s : State) : State := s.setDraws { s.draws with queue := words }

/-- The 35 words that a single-width draw reads as `v`. -/
def wordsOf (v : Nat) : List Word := (List.range 35).map fun j => BitVec.ofNat 32 (v / 2 ^ (30 * j) % 2 ^ 30)

/-- The next action of the host. -/
def facing (h : HostAction) (s : State) : State := { s with agenda := [h] }

/-- The outcome is a next state with the property. -/
def gives (o : Host.Outcome State Fault Refusal) (p : State → Bool) : Bool :=
  match o with
  | .next t => p t
  | .fault _ => false
  | .refused _ => false

/-- The fault recorded, and the word. -/
def records (c : Cause) (w : Word) (t : State) : Bool := t.fault && t.fcause == c && t.fcmd == w && t.run == none

/-! ## WellFormed: what it refuses (spec/30_encoding.md R64, GENBLUM) -/

theorem test_wellFormed_genblum_rd_eq_ra : (Instr.genblum 1 1 2).wellFormed = false := by decide
theorem test_wellFormed_genblum_rd_eq_rb : (Instr.genblum 1 2 1).wellFormed = false := by decide
theorem test_wellFormed_genblum_ra_eq_rb : (Instr.genblum 2 1 1).wellFormed = false := by decide
theorem test_wellFormed_genblum_different : (Instr.genblum 31 0 30).wellFormed = true := by decide

/-! ## Decode: the words of V60 and V61, written out from R61 to R65 -/

theorem test_decode_add : decode 0x04010000 = .ok (.add 0 1) := by decide +kernel
theorem test_decode_sub : decode 0b000010_11111_11110_00000_00000_000000 = .ok (.sub 31 30) := by decide +kernel
theorem test_decode_cmp : decode 0b000011_00000_00101_11000_00000_000000 = .ok (.cmp 5 24) := by decide +kernel
theorem test_decode_shl : decode 0b000100_00111_00000_1111111111111111 = .ok (.shl 7 65535) := by decide +kernel
theorem test_decode_shr : decode 0b000101_11111_00000_0000000000011110 = .ok (.shr 31 30) := by decide +kernel
theorem test_decode_getbit : decode 0x1A0003FF = .ok (.getbit 16 1023) := by decide +kernel
theorem test_decode_setbit : decode 0x1C400000 = .ok (.setbit 2 0) := by decide +kernel
theorem test_decode_clrbit : decode 0x20400419 = .ok (.clrbit 2 1049) := by decide +kernel
theorem test_decode_copy : decode 0x24180000 = .ok (.copy 0 24) := by decide +kernel
theorem test_decode_ldb : decode 0x2A600080 = .ok (.ldb 19 128) := by decide +kernel
theorem test_decode_stb : decode 0x2E800100 = .ok (.stb 20 256) := by decide +kernel
theorem test_decode_ldhex : decode 0x30200000 = .ok (.ldhex 1 0) := by decide +kernel
theorem test_decode_sthex : decode 0x34200200 = .ok (.sthex 1 512) := by decide +kernel
theorem test_decode_mulhalf : decode 0b001110_00000_00001_00010_00000_000000 = .ok (.mulhalf 0 1 2) := by decide +kernel
theorem test_decode_rand : decode 0x3D200000 = .ok (.rand 9) := by decide +kernel
theorem test_decode_tabinit : decode 0x40600000 = .ok (.tabinit 3) := by decide +kernel
theorem test_decode_tabshut : decode 0x44600000 = .ok (.tabshut 3) := by decide +kernel
theorem test_decode_mod : decode 0x4B030000 = .ok (.mod 24 3) := by decide +kernel
theorem test_decode_mulmont : decode 0b010011_00000_00001_00010_00011_000000 = .ok (.mulmont 0 1 2 3) := by decide +kernel
theorem test_decode_exp : decode 0b010100_00100_00101_00110_00111_000000 = .ok (.exp 4 5 6 7) := by decide +kernel
theorem test_decode_tdiv : decode 0x60000000 = .ok (.tdiv 0) := by decide +kernel
theorem test_decode_mrtest : decode 0x64000003 = .ok (.mrtest 0 3) := by decide +kernel
theorem test_decode_genprime : decode 0x68000000 = .ok (.genprime 0) := by decide +kernel
theorem test_decode_genblum : decode 0b011011_00000_00001_00010_00000_000000 = .ok (.genblum 0 1 2) := by decide +kernel
theorem test_decode_genblumn : decode 0x70000000 = .ok (.genblumn 0) := by decide +kernel
theorem test_decode_gcd : decode 0b011101_00000_00001_00010_00000_000000 = .ok (.gcd 0 1 2) := by decide +kernel
theorem test_decode_keygen : decode 0b100000_00000_00000_00000_00000_000000 = .ok .keygen := by decide +kernel
theorem test_decode_sign : decode 0b100001_00000_00000_0000000000010000 = .ok (.sign 16) := by decide +kernel
theorem test_decode_verify : decode 0x88000010 = .ok (.verify 16) := by decide +kernel
theorem test_decode_keyfin : decode 0x8C000000 = .ok .keyfin := by decide +kernel

/-- The opcodes of V61 that no command has. -/
theorem test_decode_unassigned :
    (decode 0x00000000 = .error .unassignedOpcode ∧ decode 0xFFFFFFFF = .error .unassignedOpcode) ∧
      decode 0x54000000 = .error .unassignedOpcode ∧ decode 0x78000000 = .error .unassignedOpcode ∧
      decode 0x90000000 = .error .unassignedOpcode := by decide +kernel

/-- The words of V61 with a bit set in a field that must be 0. -/
theorem test_decode_fieldNotZero :
    (decode 0x04010001 = .error .fieldNotZero ∧ decode 0x04010800 = .error .fieldNotZero) ∧
      decode 0x0C200000 = .error .fieldNotZero ∧ decode 0x10010000 = .error .fieldNotZero ∧
      decode 0x80000001 = .error .fieldNotZero ∧ decode 0x84200000 = .error .fieldNotZero := by decide +kernel

/-- The words of V61 with registers that are not pairwise different. -/
theorem test_decode_registersNotDifferent :
    decode 0x6C000000 = .error .registersNotDifferent ∧ decode 0x6C210800 = .error .registersNotDifferent := by
  decide +kernel

/-- Words of V60 from the encoder. -/
theorem test_encode :
    encode (.sub 31 30) = 0x0BFE0000 ∧ encode (.shr 31 30) = 0x17E0001E ∧ encode (.exp 4 5 6 7) = 0x508531C0 ∧
      encode (.sign 16) = 0x84000010 := by decide +kernel

/-! ## One step of each command, on the vectors of spec/95_test_vectors.md -/

/-- V10: the carry crosses a block boundary. -/
theorem test_add_block_carry :
    gives (exec (.add 0 1) (withX [(0, 0x3FFFFFFF), (1, 1)] .reset)) (fun t => t.x 0 == 0x40000000 && !t.cf) = true := by
  decide +kernel

/-- V11: the carry leaves the last block of a double-width register. -/
theorem test_add_carry_out :
    gives (exec (.add 24 25) (withX [(24, 2 ^ 2048 - 1), (25, 1)] .reset)) (fun t => t.x 24 == 0 && t.cf) = true := by
  decide +kernel

/-- V13: wrap-around, CF not written. -/
theorem test_sub_wraps :
    gives (exec (.sub 0 1) ((withX [(0, 5), (1, 7)] .reset).setCf true)) (fun t => t.x 0 == 2 ^ 1024 - 2 && t.cf) = true := by
  decide +kernel

/-- V14: the borrow crosses a block boundary; the register with itself gives 0. -/
theorem test_sub_block_borrow :
    gives (exec (.sub 0 1) (withX [(0, 2 ^ 30), (1, 1)] .reset)) (fun t => t.x 0 == 0x3FFFFFFF) = true ∧
      gives (exec (.sub 0 0) (withX [(0, 2 ^ 30)] .reset)) (fun t => t.x 0 == 0) = true := by decide +kernel

/-- V15: operands of different lengths. -/
theorem test_cmp_lengths :
    gives (exec (.cmp 0 24) (withX [(0, 5), (24, 2 ^ 1500)] .reset)) (fun t => t.statusWord == 0x10) = true ∧
      gives (exec (.cmp 24 0) (withX [(0, 5), (24, 2 ^ 1500)] .reset)) (fun t => t.statusWord == 8) = true := by
  decide +kernel

/-- V15: equal, greater. -/
theorem test_cmp_values :
    gives (exec (.cmp 25 0) (withX [(0, 5), (25, 5)] .reset)) (fun t => t.statusWord == 0) = true ∧
      gives (exec (.cmp 1 0) (withX [(0, 5), (1, 7)] .reset)) (fun t => t.statusWord == 8) = true := by decide +kernel

/-- V16: the last bit, and a count of the length. -/
theorem test_shl :
    gives (exec (.shl 0 1023) (withX [(0, 1)] .reset)) (fun t => t.x 0 == 2 ^ 1023) = true ∧
      gives (exec (.shl 1 1024) (withX [(1, 2 ^ 1024 - 1)] .reset)) (fun t => t.x 1 == 0) = true := by decide +kernel

/-- V16: bits leave through the mask; a count of 1024 is legal at double width. -/
theorem test_shl_mask :
    gives (exec (.shl 3 4) (withX [(3, 2 ^ 1024 - 1)] .reset)) (fun t => t.x 3 == 2 ^ 1024 - 16) = true ∧
      gives (exec (.shl 24 1024) (withX [(24, 1)] .reset)) (fun t => t.x 24 == 2 ^ 1024) = true := by decide +kernel

/-- V17. -/
theorem test_shr :
    gives (exec (.shr 0 1023) (withX [(0, 2 ^ 1023)] .reset)) (fun t => t.x 0 == 1) = true ∧
      gives (exec (.shr 24 1024) (withX [(24, 2 ^ 2047)] .reset)) (fun t => t.x 24 == 2 ^ 1023) = true := by decide +kernel

/-- V18: a bit that is set, and positions above the length. -/
theorem test_getbit :
    gives (exec (.getbit 0 1023) (withX [(0, 2 ^ 1023)] .reset)) (fun t => t.statusWord == 0x20) = true ∧
      gives (exec (.getbit 0 1049) (withX [(0, 2 ^ 1023)] .reset)) (fun t => t.statusWord == 0) = true := by decide +kernel

/-- V18: the first position that is out of range. -/
theorem test_getbit_range :
    gives (exec (.getbit 0 1050) .reset) (records .range 0x1800041A) = true ∧
      gives (exec (.getbit 24 2070) .reset) (records .range 0x1B000816) = true := by decide +kernel

/-- V19: the top bit, and a bit that the mask removes. -/
theorem test_setbit :
    gives (exec (.setbit 0 1023) .reset) (fun t => t.x 0 == 2 ^ 1023) = true ∧
      gives (exec (.setbit 0 1030) (withX [(0, 2 ^ 1023)] .reset)) (fun t => t.x 0 == 2 ^ 1023 && !t.fault) = true := by
  decide +kernel

/-- V19. -/
theorem test_clrbit :
    gives (exec (.clrbit 0 1023) (withX [(0, 2 ^ 1023 + 1)] .reset)) (fun t => t.x 0 == 1) = true ∧
      gives (exec (.clrbit 0 5) (withX [(0, 1)] .reset)) (fun t => t.x 0 == 1) = true := by decide +kernel

/-- V20 (a): double to single. -/
theorem test_copy_to_single :
    gives (exec (.copy 0 24) (withX [(24, 2 ^ 1500 + 2 ^ 1024 + 0xABC), (0, 0x777)] .reset)) (fun t => t.x 0 == 0xABC) = true := by
  decide +kernel

/-- V20 (b): single to double. -/
theorem test_copy_to_double :
    gives (exec (.copy 25 1) (withX [(25, 2 ^ 2047 + 2 ^ 1060 + 2 ^ 1030 + 5), (1, 9)] .reset))
      (fun t => t.x 25 == 2 ^ 2047 + 2 ^ 1060 + 9) = true := by decide +kernel

/-- V22: big-endian bytes. -/
theorem test_ldb :
    gives (exec (.ldb 0 0) (withBytes 0 (List.replicate 126 0 ++ [1, 2]) .reset)) (fun t => t.x 0 == 0x102) = true := by
  decide +kernel

/-- V22: the first address that is out of range. -/
theorem test_ldb_bufrange : gives (exec (.ldb 0 3969) .reset) (records .bufrange 0x28000F81) = true := by decide +kernel

/-- V22: the bytes stored, and the host's view of them. -/
theorem test_stb :
    gives (exec (.stb 1 256) (withX [(1, 0xA1B2C3)] .reset))
      (fun t => t.byte 256 == 0 && t.byte 381 == 0xA1 && t.byte 383 == 0xC3 && readWord 0x45F t == 0xC3B2A100) = true := by
  decide +kernel

/-- V23 (b): padding and mixed case. -/
theorem test_ldhex :
    gives (exec (.ldhex 0 16)
        (withBytes 16 [0x30, 0x30, 0x30, 0x30, 0x30, 0x66, 0x46] { withX [(0, 0x5555)] .reset with len := 7 }))
      (fun t => t.x 0 == 0xFF && !t.cerr && !t.warn) = true := by decide +kernel

/-- V23 (c): `x` is no hex digit. -/
theorem test_ldhex_malformed :
    gives (exec (.ldhex 0 16) (withBytes 16 [0x30, 0x78, 0x31, 0x46] { State.reset with len := 4 }))
      (fun t => t.statusWord == 0x80 && t.draws.freePos == 1) = true := by decide +kernel

/-- V25: the last digits, upper case, and the padding. -/
theorem test_sthex :
    gives (exec (.sthex 0 0) (withX [(0, 0x11AC1)] .reset))
      (fun t => t.memRead 250 6 == [0x30, 0x31, 0x31, 0x41, 0x43, 0x31]) = true := by decide +kernel

/-- V25: the first address that is out of range. -/
theorem test_sthex_bufrange :
    gives (exec (.sthex 0 3841) .reset) (records .bufrange 0x34000F01) = true ∧
      gives (exec (.sthex 0 3840) .reset) (fun t => !t.fault) = true := by decide +kernel

/-- V26: the largest product. -/
theorem test_mulhalf :
    gives (exec (.mulhalf 4 3 3) (withX [(3, 2 ^ 512 - 1)] .reset)) (fun t => t.x 4 == 2 ^ 1024 - 2 ^ 513 + 1) = true := by
  decide +kernel

/-- V26: a factor of 513 bits. -/
theorem test_mulhalf_range :
    gives (exec (.mulhalf 6 5 1) (withX [(5, 2 ^ 512), (1, 0x4CD)] .reset)) (records .range 0x38C50800) = true := by
  decide +kernel

/-- V27, shorter: bits 31:30 of a word and bits 31:4 of the last are dropped, and 35 words are consumed. -/
theorem test_rand :
    gives (exec (.rand 0) (fed (0xC0000001 :: (List.replicate 33 0 ++ [0xFFFFFFFF, 5])) .reset))
      (fun t => t.x 0 == 1 + 15 * 2 ^ 1020 && t.draws.queue == [5] && t.draws.rngPos == 35) = true := by decide +kernel

/-- V30: the table of 17. -/
theorem test_tabinit :
    gives (exec (.tabinit 1) (withX [(1, 17)] .reset))
      (fun t => (t.tab 1).entries == [16, 15, 13, 9, 1] && (t.tab 1).msb == 4 && t.tabactWord == 2) = true := by
  decide +kernel

/-- V30: no table of 0. -/
theorem test_tabinit_zero : gives (exec (.tabinit 4) .reset) (records .zeromod 0x40800000) = true := by decide +kernel

/-- R121: the flag falls, the register stays. -/
theorem test_tabshut :
    gives (exec (.tabshut 1) (opened 1 17 .reset)) (fun t => t.tabactWord == 0 && t.x 1 == 17) = true := by decide +kernel

/-- V31: the scan, for a value of 33 bits. -/
theorem test_mod :
    gives (exec (.mod 24 1) (withX [(24, 0x1FFFFFFFF)] (opened 1 0x11BBF .reset))) (fun t => t.x 24 == 0x25AE) = true := by
  decide +kernel

/-- V31: one bit too long. -/
theorem test_mod_reduce :
    gives (exec (.mod 25 1) (withX [(25, 2 ^ 33)] (opened 1 0x11BBF .reset))) (records .reduce 0x4B210000) = true := by
  decide +kernel

/-- V2, from the source. -/
theorem test_mulmont :
    gives (exec (.mulmont 0 1 2 3) (withX [(1, 0x4CD), (2, 0x16A0)] (opened 3 0x11BBF .reset)))
      (fun t => t.x 0 == 0x11AC1) = true := by decide +kernel

/-- V34: an operand above the modulus that leaves too much. -/
theorem test_mulmont_reduce :
    gives (exec (.mulmont 0 1 2 3) (withX [(1, 29), (2, 37)] (opened 3 17 .reset))) (records .reduce 0x4C0110C0) = true := by
  decide +kernel

/-- V9b, from the source: `3^16 mod 17`. -/
theorem test_exp :
    gives (exec (.exp 0 1 2 3) (withX [(1, 3), (2, 16)] (opened 3 17 .reset))) (fun t => t.x 0 == 1) = true := by
  decide +kernel

/-- V38: an even modulus draws the value and raises no fault. -/
theorem test_exp_even :
    gives (exec (.exp 0 1 2 3) (withX [(1, 3), (2, 5)] (opened 3 16 .reset)))
      (fun t => !t.fault && t.draws.freePos == 1) = true := by decide +kernel

/-- V40. -/
theorem test_tdiv :
    gives (exec (.tdiv 0) (withX [(0, 41)] .reset)) (fun t => t.tf) = true ∧
      gives (exec (.tdiv 0) (withX [(0, 37)] .reset)) (fun t => !t.tf) = true := by decide +kernel

/-- V41 (c): a strong liar passes one round. -/
theorem test_mrtest_passes :
    gives (exec (.mrtest 0 1) (fed (wordsOf 174) (withX [(0, 221)] .reset)))
      (fun t => t.tf && t.draws.rngPos == 35 && t.tabactWord == 0) = true := by decide +kernel

/-- V41 (d), and (b): a witness out of range leaves the command running. -/
theorem test_mrtest_rejects :
    gives (exec (.mrtest 0 1) (fed (wordsOf 137) (withX [(0, 221)] (.reset)))) (fun t => !t.tf && t.run == none) = true ∧
      gives (exec (.mrtest 0 1) (fed (wordsOf 15) (withX [(0, 13)] .reset)))
        (fun t => t.busy && t.draws.rngPos == 35 && t.tabActive 0) = true := by decide +kernel

/-- R153: a first candidate that 3 divides is dropped and the command goes on. -/
theorem test_genprime_retries :
    gives (exec (.genprime 0) (fed (wordsOf 0) .reset))
      (fun t => t.run == some (.genprime 0 none) && t.x 0 == 0 && t.draws.rngPos == 35) = true := by decide +kernel

/-- R154: a first half-width candidate that is 1 modulo 4 is dropped. -/
theorem test_genblum_retries :
    gives (exec (.genblum 0 1 2) (fed (wordsOf 1) .reset))
      (fun t => t.run == some (.blum (.genblum 0 1 2) none none) && t.draws.rngPos == 35) = true := by decide +kernel

/-- R156: the same words as GENBLUM. -/
theorem test_genblumn_retries :
    gives (exec (.genblumn 0) (fed (wordsOf 1) .reset))
      (fun t => t.run == some (.blum (.genblumn 0) none none) && t.draws.rngPos == 35) = true := by decide +kernel

/-- V42. -/
theorem test_gcd :
    gives (exec (.gcd 0 1 2) (withX [(1, 48), (2, 180)] .reset)) (fun t => t.x 0 == 12) = true ∧
      gives (exec (.gcd 0 1 2) (withX [(1, 0), (2, 5)] .reset)) (fun t => t.x 0 == 5) = true := by decide +kernel

/-- V42: double width. -/
theorem test_gcd_double :
    gives (exec (.gcd 24 25 26) (withX [(25, 3 * 2 ^ 2000), (26, 9 * 2 ^ 1990)] .reset))
      (fun t => t.x 24 == 3 * 2 ^ 1990) = true := by decide +kernel

/-! ## Searches that find: a witness of `N - 1`, for which every power is `1` or `N - 1` -/

/-- `N - 1` for an odd exponent, 1 for an even one. -/
def signOf (n a : Nat) : Nat := if a % 2 = 1 then n - 1 else 1

/-- The two values add their exponents when they are multiplied modulo `n`. -/
def SignsMultiply (n : Nat) : Prop := ∀ a b, mulMont (signOf n a) (signOf n b) n (msbOf n) = signOf n (a + b)

theorem signsMultiply_of {n : Nat} (h11 : mulMont 1 1 n (msbOf n) = 1) (h1m : mulMont 1 (n - 1) n (msbOf n) = n - 1)
    (hm1 : mulMont (n - 1) 1 n (msbOf n) = n - 1) (hmm : mulMont (n - 1) (n - 1) n (msbOf n) = 1) : SignsMultiply n := by
  intro a b
  unfold signOf
  rcases Nat.mod_two_eq_zero_or_one a with ha | ha <;> rcases Nat.mod_two_eq_zero_or_one b with hb | hb <;>
    simp [Nat.add_mod, ha, hb, h11, h1m, hm1, hmm]

theorem powList_signs {n : Nat} (h : SignsMultiply n) (b k p : Nat) :
    powList (fun x y => mulMont x y n (msbOf n)) (signOf n b) k (signOf n p) =
      (powList (fun x y => x + y) b k p).map (signOf n) := by
  induction k generalizing p with
  | zero => rfl
  | succ k ih => rw [powList_succ, powList_succ, List.map_cons, ← ih, h]

theorem squareTimes_signs {n : Nat} (h : SignsMultiply n) (k a : Nat) :
    squareTimes (fun x y => mulMont x y n (msbOf n)) k (signOf n a) =
      signOf n (squareTimes (fun x y => x + y) k a) := by
  induction k generalizing a with
  | zero => rfl
  | succ k ih => rw [squareTimes_succ, squareTimes_succ, ← ih, h]

theorem expWindows_signs {n : Nat} (h : SignsMultiply n) (pow : List Nat) (hl : pow.length = 32) (e k a : Nat) :
    ∃ a', expWindows (fun x y => mulMont x y n (msbOf n)) (pow.map (signOf n)) e k (signOf n a) = signOf n a' := by
  induction k generalizing a with
  | zero => exact ⟨a, rfl⟩
  | succ k ih =>
    simp only [expWindows, evalFirst_eq, squareTimes_signs h]
    split
    · have hw : e >>> (Config.window * k) % 2 ^ Config.window < pow.length := by
        rw [hl]; exact Nat.mod_lt _ (by decide)
      simp only [List.getD_eq_getElem?_getD, List.getElem?_map, List.getElem?_eq_getElem hw, Option.map_some,
        Option.getD_some, h _ _]
      exact ih _
    · exact ih _

/-- Every power of `n - 1` is `1` or `n - 1`. -/
theorem windowExp_signs {n : Nat} (h : SignsMultiply n) (hr : (tableOf n).reduce n (n - 1) = n - 1) (e : Nat) :
    ∃ a, windowExp (tableOf n) (n - 1) e n = signOf n a := by
  unfold windowExp
  simp only [hr, tableOf_msb]
  have h1 : signOf n 1 = n - 1 := rfl
  have h0 : signOf n 0 = 1 := rfl
  have hp : powTable (fun x y => mulMont x y n (msbOf n)) (n - 1) =
      (0 :: powList (fun x y => x + y) 1 31 1).map (signOf n) := by
    rw [List.map_cons, h0, ← powList_signs h, h1]; rfl
  rw [hp, ← h0]
  exact expWindows_signs h _ (by simp) e _ 0

/-- A round with the witness `n - 1` is passed. -/
theorem millerRabinRound_signs {n : Nat} (h : SignsMultiply n) (hr : (tableOf n).reduce n (n - 1) = n - 1)
    (ho : n % 2 = 1) (hg : Nat.gcd (n - 1) n = 1) (d : Draws) : millerRabinRound n (n - 1) d = (true, d) := by
  unfold millerRabinRound
  rw [if_neg (by simpa using hg)]
  simp only [expDraw_odd _ _ _ d ho]
  obtain ⟨a, ha⟩ := windowExp_signs h hr ((n - 1) >>> v2 (n - 1))
  rw [ha]
  unfold signOf
  split <;> simp

/-- The facts about `n` that the searches below use. -/
structure PassesWithLastWitness (n : Nat) : Prop where
  signs : SignsMultiply n
  reduce : (tableOf n).reduce n (n - 1) = n - 1
  odd : n % 2 = 1
  coprime : Nat.gcd (n - 1) n = 1
  large : 2 < n

/-- A draw of `n - 1` is a witness in range, and its round is passed. -/
theorem millerRabin_lastWitness {n : Nat} (h : PassesWithLastWitness n) {d : Draws}
    (hd : (randFill Config.lenS d).1 % 2 ^ bitlen n = n - 1) (k : Nat) :
    millerRabin n (k + 1) d = millerRabin n k (randFill Config.lenS d).2 := by
  have := h.large
  rw [millerRabin]
  simp only [hd]
  rw [if_pos (by omega), millerRabinRound_signs h.signs h.reduce h.odd h.coprime]
  rfl

def fullCandidate : Nat := 2 ^ 1023 + 9
def halfCandidate : Nat := 2 ^ 511 + 3

theorem fullCandidate_passes : PassesWithLastWitness fullCandidate where
  signs := signsMultiply_of (by decide +kernel) (by decide +kernel) (by decide +kernel) (by decide +kernel)
  reduce := by decide +kernel
  odd := by decide +kernel
  coprime := by decide +kernel
  large := by decide +kernel

theorem halfCandidate_passes : PassesWithLastWitness halfCandidate where
  signs := signsMultiply_of (by decide +kernel) (by decide +kernel) (by decide +kernel) (by decide +kernel)
  reduce := by decide +kernel
  odd := by decide +kernel
  coprime := by decide +kernel
  large := by decide +kernel

/-- Three rounds with the last witness end in "prime". -/
theorem testCandidate_found {n : Nat} (h : PassesWithLastWitness n) {d : Draws}
    (h1 : (randFill Config.lenS d).1 % 2 ^ bitlen n = n - 1)
    (h2 : (randFill Config.lenS (randFill Config.lenS d).2).1 % 2 ^ bitlen n = n - 1)
    (h3 : (randFill Config.lenS (randFill Config.lenS (randFill Config.lenS d).2).2).1 % 2 ^ bitlen n = n - 1) :
    testCandidate { value := n, rounds := 3 } d =
      (.found n, (randFill Config.lenS (randFill Config.lenS (randFill Config.lenS d).2).2).2) := by
  unfold testCandidate
  simp only [millerRabin_lastWitness h h1, millerRabin_lastWitness h h2, millerRabin_lastWitness h h3, millerRabin_zero]

theorem searchPrime_found {n : Nat} {kind : PrimeKind} (h : PassesWithLastWitness n) {d : Draws}
    (hc : candidateOf kind (randFill Config.lenS d).1 = n) (hs : screened kind n = true)
    (h1 : (randFill Config.lenS (randFill Config.lenS d).2).1 % 2 ^ bitlen n = n - 1)
    (h2 : (randFill Config.lenS (randFill Config.lenS (randFill Config.lenS d).2).2).1 % 2 ^ bitlen n = n - 1)
    (h3 : (randFill Config.lenS (randFill Config.lenS (randFill Config.lenS (randFill Config.lenS d).2).2).2).1 %
      2 ^ bitlen n = n - 1) :
    searchPrime kind none d =
      (.found n, (randFill Config.lenS (randFill Config.lenS (randFill Config.lenS (randFill Config.lenS d).2).2).2).2) := by
  unfold searchPrime
  simp only [hc, hs, if_true]
  exact testCandidate_found h h1 h2 h3

/-- Words for a candidate and three rounds with the last witness. -/
def wordsToFind (n : Nat) : List Word := wordsOf n ++ wordsOf (n - 1) ++ wordsOf (n - 1) ++ wordsOf (n - 1)

def fullDraws : Draws := { queue := wordsToFind fullCandidate, rngPos := 0, freePos := 0 }
def pairDraws : Draws := { queue := wordsToFind halfCandidate ++ wordsToFind halfCandidate, rngPos := 0, freePos := 0 }

theorem test_witness_search_full : (searchPrime .full none fullDraws).1 = .found fullCandidate := by
  rw [searchPrime_found fullCandidate_passes (by decide +kernel) (by decide +kernel) (by decide +kernel)
    (by decide +kernel) (by decide +kernel)]

theorem searchFirst_half : searchPrime .half none pairDraws =
    (.found halfCandidate, { queue := wordsToFind halfCandidate, rngPos := 140, freePos := 0 }) := by
  refine (searchPrime_found halfCandidate_passes (by decide +kernel) (by decide +kernel) (by decide +kernel)
    (by decide +kernel) (by decide +kernel)).trans (Prod.ext rfl ?_)
  decide +kernel

theorem searchSecond_half :
    (searchPrime .half none { queue := wordsToFind halfCandidate, rngPos := 140, freePos := 0 }).1 =
      .found halfCandidate := by
  rw [searchPrime_found halfCandidate_passes (by decide +kernel) (by decide +kernel) (by decide +kernel)
    (by decide +kernel) (by decide +kernel)]

theorem test_witness_search_pair : (searchPair none none pairDraws).1 = .found halfCandidate halfCandidate := by
  unfold searchPair searchSecond
  simp only [searchFirst_half, searchSecond_half]

/-! ## Keys: the values of V50 to V52 -/

def keyP : Nat :=
  0xD3892C9A675E848E7BEF5C000E9ADAC523F7E429BD2BF243D6175E4EC58A80227CB0D0759B4F7C26D8AD4012B93EAD4DEC87A3FDB95ADFF80237B1E58EF2820F
def keyQ : Nat :=
  0xF56BFABD7790D294B8901DC05CF5E7207F51308CED4E50EAEF9DE340E134B279D2863443474D49B587909962B1FDD611D11F7DEE9154CD8027F9F0E27EE44D0B
def hashV51 : Nat := 0xD6837422A93AEE15DC123C67CBA6B97B2E14EDC3976B442D4AADE97A22DF4F32
def rootP : Nat :=
  0x6AFFF2DBDB3C30DB75AF21B3DED55264BAB2E106427FC166D03CCBFDCA355B41975147959D7B3FB2FAC3A4B1770078AFD92281ACDFBCFBBFF5B4DD937E14FD7B
def rootQ : Nat :=
  0x83831AAD7453D4F88E5C1F3A2D774152891D96DFCDCDEA225E29CA0C0A6DF130B7AA6E8B731331212BC37B5E332E6E918D113440E793B4245E3F387C59AF972F
def inverseP : Nat :=
  0x63F88BB839DE240B18D56E0909548B75AE3CA2A01A8F1A0A2F19729AFFB0D4315B2BA949B2FDF0CECC2F7A38C90F34C96FDA2CFCB17A97DF3B5E2E674EAC4FFD
def signatureV51 : Nat :=
  0x1FBFA4F16F0D43393E322B3011270D492BC898D8649749A509F89AD1C432D5BC50C3DC93E3DA56E46EEB283BBCCC424B08767BABDAD44EF0B1EC40C8AD404ED6 * 2 ^ 512 +
    0x3B81C4A9DA85D08193EE9CAA9EDFEB3355631F89B3A04E340CF24F49FA01464C6A2F3EFAF3543291F7742AADF31190F92309A2A69BB4122A5F305D0FCCCD2216

/-- The state after KEYGEN of V50. -/
def keyed : State :=
  (((((withX [(17, keyP), (18, keyQ), (16, keyP * keyQ)] .reset).openTab 16).openTab 17).openTab 18)).setPstate .keysGenerated

/-- V51: Garner's line gives the signature, and the inverse of R183 is one. -/
theorem test_garner_v51 : garner keyP keyQ rootP rootQ inverseP = signatureV51 ∧ keyP * inverseP % keyQ = 1 := by
  decide +kernel

/-- V52, V54: the signature is accepted, the other root too, and another value is not. -/
theorem test_verify_v52 :
    accepts (keyP * keyQ) 1023 signatureV51 hashV51 = true ∧
      accepts (keyP * keyQ) 1023 (keyP * keyQ - signatureV51) hashV51 = true ∧
      accepts (keyP * keyQ) 1023 (signatureV51 + 1) hashV51 = false := by decide +kernel

/-- V54: a value that is not below the modulus is turned away without a fault. -/
theorem test_verify_too_large :
    gives (exec (.verify 0) (withX [(20, keyP * keyQ)] keyed)) (fun t => !t.tf && !t.fault && t.statusWord == 0x100) = true := by
  decide +kernel

/-- V50, V62: SIGN before KEYGEN, and with a message past BUF. -/
theorem test_sign_faults :
    gives (exec (.sign 0) .reset) (records .pstate 0x84000000) = true ∧
      gives (exec (.sign 4090) { State.reset with len := 10 }) (records .pstate 0x84000FFA) = true ∧
      gives (exec (.sign 4090) { keyed with len := 10 }) (records .bufrange 0x84000FFA) = true := by decide +kernel

/-- V55: KEYFIN closes the tables and keeps the registers. -/
theorem test_keyfin :
    gives (exec .keyfin keyed) (fun t => t.tabactWord == 0 && t.statusWord == 0x400 && t.x 17 == keyP) = true := by
  decide +kernel

/-- V55: the key registers are protected. -/
theorem test_keys_protected :
    gives (exec (.tabshut 17) keyed) (records .pstate 0x46200000) = true ∧
      gives (exec (.sub 17 17) keyed) (records .tabactive 0x0A310000) = true := by decide +kernel

/-- R181: a first candidate that is 1 modulo 4 leaves KEYGEN running, with no effect; KEYGEN twice is a fault. -/
theorem test_keygen :
    gives (exec .keygen (fed (wordsOf 1) .reset))
        (fun t => t.statusWord == 1 && t.run == some (.blum .keygen none none) && t.x 17 == 0) = true ∧
      gives (exec .keygen keyed) (records .pstate 0x80000000) = true := by decide +kernel

/-! ## States and operands that meet the hypotheses of the statements -/

theorem test_witness_DecodeInvertsEncode :
    (Instr.shl 31 65535).wellFormed = true ∧ (Instr.genblum 31 0 30).wellFormed = true ∧ Instr.keyfin.wellFormed = true := by
  decide

theorem test_witness_EncodeInvertsDecode :
    decode 0x08000000 = .ok (.sub 0 0) ∧ decode 0x77FFF800 = .ok (.gcd 31 31 31) := by decide +kernel

theorem test_witness_StepRunsTheDecodedCommand :
    (facing (.write 0 0x04010000) .reset).agenda = .write 0 0x04010000 :: [] ∧ State.reset.run = none ∧
      State.reset.fault = false ∧ decode 0x04010000 = .ok (.add 0 1) := by decide +kernel

/-- The next step runs a command that was placed. -/
theorem test_step_runs_placed_command :
    gives (step ((withX [(0, 5), (1, 7)] .reset).withFetchWord 32 0x04010000)) (fun t => t.x 0 == 12 && t.agenda == []) = true := by
  decide +kernel

theorem test_witness_IllegalWordRaisesIllcmd :
    (facing (.write 0 0) .reset).agenda = .write 0 0 :: [] ∧ State.reset.run = none ∧ State.reset.fault = false ∧
      decode 0 = .error .unassignedOpcode := by decide +kernel

/-- V61, V63: the fault record of an illegal word. -/
theorem test_step_illegal_word :
    gives (step (facing (.write 0 0x04010001) .reset)) (records .illcmd 0x04010001) = true := by decide +kernel

/-- A command that waits for a new witness, and a CORE that has recorded a fault. -/
def testing (n : Nat) : State := { opened 0 n .reset with run := some (.mrtest 0 1) }
def running : State := testing 13
def faulted : State := takeFault .illcmd 0 .reset

theorem test_witness_HostWritesAreIgnoredWhileBusyOrFaulted :
    ((facing (.write 0 0x04010000) running).agenda = .write 0 0x04010000 :: [] ∧ running.run ≠ none) ∧
      (facing (.write 0x7FF 1) faulted).agenda = .write 0x7FF 1 :: [] ∧ 0x7FF ≠ 5 ∧ faulted.fault = true := by
  decide +kernel

theorem test_witness_FaultEntryStopsTheCore :
    (takeFault .range 0 (facing (.write 0 0x04010000) .reset)).agenda = .write 0 0x04010000 :: [] ∧
      (takeFault .range 0 (facing (.read 3) .reset)).agenda = .read 3 :: [] := by decide +kernel

theorem test_witness_FaultIsTerminalUntilReset :
    (∃ t, step (facing (.write 0 0x04010000) faulted) = .next t) ∧ faulted.fault = true ∧ faulted.run = none ∧
      (∀ v rest, (facing (.write 0 0x04010000) faulted).agenda = .write 5 v :: rest → v.getLsbD 0 = false) ∧
      (facing (.write 0 0x04010000) faulted).agenda.head? ≠ some .reset := by
  refine ⟨⟨_, rfl⟩, by decide, by decide, ?_, by decide⟩
  intro v rest h
  simp [facing] at h

theorem test_witness_FaultingCommandHasNoOtherEffect :
    State.reset.fault = false ∧ exec (.tabinit 24) .reset = .next (takeFault .width 0x43000000 .reset) ∧
      (takeFault .width 0x43000000 .reset).fault = true := ⟨by decide, rfl, by decide⟩

/-- Two conditions at once, the lower code first; and no condition. -/
theorem test_witness_LowestFaultCodeIsRecorded :
    (faultCondition (.add 0 24) (opened 0 17 .reset) .width ∧ faultCondition (.add 0 24) (opened 0 17 .reset) .tabactive) ∧
      ∀ c, ¬ faultCondition (.add 0 1) .reset c := by
  refine ⟨⟨.inl ⟨rfl, by decide⟩, .inr ⟨rfl, by decide +kernel⟩⟩, ?_⟩
  rintro c (⟨_, h⟩ | ⟨_, h⟩)
  · exact h (by decide)
  · exact absurd h (by decide +kernel)

/-- V62: of two causes that hold, the lower code is recorded. -/
theorem test_fault_priority :
    gives (exec (.add 0 24) (opened 0 17 .reset)) (records .width 0x04180000) = true ∧
      gives (exec (.mod 0 1) (opened 0 17 .reset)) (records .notable 0x48010000) = true := by decide +kernel

/-- The addresses at which the clauses of the host reads meet. -/
theorem test_witness_HostReadsShowTheState :
    State.reset.run = none ∧ ∀ a ∈ [0, 1, 2, 3, 4, 5, 6, 7, 8, 0x3FF, 0x400, 0x7FF, 0x800],
      (facing (.read a) .reset).agenda = .read a :: [] := by decide +kernel

theorem test_host_reads :
    gives (step (facing (.read 7) keyed)) (fun t => t.hostData == 0x00070000) = true ∧
      gives (step (facing (.read 1) keyed)) (fun t => t.hostData == 0x100) = true := by decide +kernel

theorem test_witness_BusyReadsShowBusyAndPstate :
    (facing (.read 1) running).agenda = .read 1 :: [] ∧ running.run ≠ none := by decide +kernel

theorem test_busy_status : gives (step (facing (.read 1) running)) (fun t => t.hostData.getLsbD 0) = true := by
  simp [step, takeTurn, facing, running, testing, hostAct, hostRead, State.busy, portAddr, busyStatusWord, gives]

theorem test_witness_WindowWordIsLittleEndian :
    State.reset.run = none ∧ State.reset.fault = false ∧
      ((0 : Nat) < 1024 ∧ (facing (.write (0x400 + 0) 1) .reset).agenda = .write (0x400 + 0) 1 :: []) ∧
      ((1023 : Nat) < 1024 ∧ (facing (.write (0x400 + 1023) 1) .reset).agenda = .write (0x400 + 1023) 1 :: []) := by
  decide +kernel

theorem test_window_write :
    gives (step (facing (.write 0x7FF 0xC3B2A100) .reset)) (fun t => t.byte 4093 == 0xA1 && t.byte 4095 == 0xC3) = true := by
  decide +kernel

theorem test_witness_HostWritesLenAndIgnoresTheRest :
    State.reset.run = none ∧ State.reset.fault = false ∧
      ∀ a ∈ [1, 2, 3, 4, 6, 7, 8, 0x3FF, 0x800], (facing (.write a 7) .reset).agenda = .write a 7 :: [] := by decide +kernel

theorem test_len_write : gives (step (facing (.write 2 0xABCD1234) .reset)) (fun t => t.lenWord == 0x1234) = true := by
  decide +kernel

theorem test_witness_ResetLeavesTheResetValues :
    (facing .reset running).agenda = .reset :: [] ∧ (facing (.write 5 3) faulted).agenda = .write 5 3 :: [] ∧
      (3 : Word).getLsbD 0 = true ∧ (2 : Word).getLsbD 0 = false := by decide +kernel

theorem test_soft_reset :
    gives (step (facing (.write 5 1) (withX [(0, 5)] faulted))) (fun t => t.x 0 == 0 && t.statusWord == 0 && t.bufEpoch == 1) = true := by
  decide +kernel

theorem test_running_goes_on :
    gives (step (fed (wordsOf 2) running)) (fun t => t.run == none && t.tf && t.tabactWord == 0) = true := by decide +kernel

/-! ### The integer commands -/

theorem test_witness_AddIsAdditionWithCarry :
    regLen 23 ≠ regLen 24 ∧ (regLen 23 = regLen 0 ∧ (opened 23 17 .reset).tabActive 23 = true) ∧
      (regLen 31 = regLen 24 ∧ State.reset.tabActive 31 = false) := by decide +kernel

theorem test_witness_SubIsSubtractionModulo :
    regLen 24 ≠ regLen 23 ∧ (regLen 0 = regLen 23 ∧ (opened 0 17 .reset).tabActive 0 = true) ∧
      (regLen 0 = regLen 0 ∧ State.reset.tabActive 0 = false) := by decide +kernel

theorem test_witness_ShiftsMultiplyAndDivide :
    (opened 23 17 .reset).tabActive 23 = true ∧ State.reset.tabActive 24 = false := by decide +kernel

theorem test_witness_GetbitReadsTheBit :
    ((if (23 : Reg).toNat < 24 then 1050 else 2070) ≤ (1050 : Imm).toNat ∧
        (1049 : Imm).toNat < (if (23 : Reg).toNat < 24 then 1050 else 2070)) ∧
      (if (24 : Reg).toNat < 24 then 1050 else 2070) ≤ (2070 : Imm).toNat ∧
        (2069 : Imm).toNat < (if (24 : Reg).toNat < 24 then 1050 else 2070) := by decide

theorem test_witness_SetbitAndClrbitChangeOneBit :
    (if (23 : Reg).toNat < 24 then 1050 else 2070) ≤ (1050 : Imm).toNat ∧
      ((1049 : Imm).toNat < (if (23 : Reg).toNat < 24 then 1050 else 2070) ∧ (opened 23 17 .reset).tabActive 23 = true) ∧
      ((1023 : Imm).toNat < (if (23 : Reg).toNat < 24 then 1050 else 2070) ∧ State.reset.tabActive 23 = false) := by
  decide +kernel

theorem test_witness_CopyMovesTheOverlappingBlocks :
    (opened 23 17 .reset).tabActive 23 = true ∧
      (State.reset.tabActive 23 = false ∧ regLen 23 = regLen 0 ∧ (23 : Reg).toNat < 24 ∧ 24 ≤ (24 : Reg).toNat) ∧
      State.reset.tabActive 24 = false := by decide +kernel

theorem test_witness_MulhalfWritesTheProduct :
    2 ^ (regLen 0 / 2) ≤ (withX [(1, 2 ^ 512)] .reset).x 1 ∧
      ((withX [(1, 2 ^ 512 - 1)] .reset).x 1 < 2 ^ (regLen 0 / 2) ∧ (opened 0 17 .reset).tabActive 0 = true ∧
        (opened 0 17 .reset).x 1 < 2 ^ (regLen 0 / 2)) ∧
      ((withX [(1, 2 ^ 1024 - 1)] .reset).x 1 < 2 ^ (regLen 24 / 2) ∧ State.reset.tabActive 24 = false) := by
  decide +kernel

theorem test_witness_RandFillsBlocksFromTheStream :
    (opened 0 17 .reset).tabActive 0 = true ∧ State.reset.tabActive 24 = false ∧ 34 - 1 < blockCount (regLen 0) - 1 ∧
      68 - 1 < blockCount (regLen 24) - 1 := by decide +kernel

/-! ### Loads and stores -/

theorem test_witness_LdbLoadsBigEndianBytes :
    (3969 : Imm).toNat + regLen 0 / 8 > Config.bufSize ∧
      ((3968 : Imm).toNat + regLen 0 / 8 ≤ Config.bufSize ∧ (opened 0 17 .reset).tabActive 0 = true) ∧
      ((3840 : Imm).toNat + regLen 24 / 8 ≤ Config.bufSize ∧ State.reset.tabActive 24 = false) := by decide +kernel

theorem test_witness_StbStoresBigEndianBytes :
    (3969 : Imm).toNat + regLen 0 / 8 > Config.bufSize ∧ (3968 : Imm).toNat + regLen 0 / 8 ≤ Config.bufSize ∧
      (3840 : Imm).toNat + regLen 24 / 8 ≤ Config.bufSize := by decide

/-- `n` characters `0` at address 0, and LEN. -/
def zeros (n : Nat) : State := { withBytes 0 (List.replicate n 0x30) .reset with len := BitVec.ofNat 16 n }

theorem zeros_digits (n : Nat) : ∀ k, k < n → ∃ v, IsHexDigit ((zeros n).byte ((0 : Imm).toNat + k)) v := by
  intro k hk
  refine ⟨0, .inl ⟨by decide, ?_⟩⟩
  have : (zeros n).byte ((0 : Imm).toNat + k) = (withBytes 0 (List.replicate n 0x30) .reset).byte k := by
    simp [zeros, State.byte]
  rw [this, withBytes, State.byte_memWrite, dif_pos (by simpa using hk)]
  simp

theorem test_witness_LdhexLoadsOrReports :
    ((3841 : Imm).toNat + (zeros 256).len.toNat > Config.bufSize) ∧
      ((3840 : Imm).toNat + (zeros 256).len.toNat ≤ Config.bufSize ∧ ((zeros 256).openTab 0).tabActive 0 = true) ∧
      ((zeros 256).tabActive 0 = false ∧ (zeros 256).len.toNat ≠ 0 ∧ (zeros 256).len.toNat ≤ regLen 0 / 4 ∧
        ∀ k, k < 256 → ∃ v, IsHexDigit ((zeros 256).byte ((0 : Imm).toNat + k)) v) ∧
      ((zeros 257).tabActive 0 = false ∧ regLen 0 / 4 < (zeros 257).len.toNat ∧
        ∀ k, k < 257 → ∃ v, IsHexDigit ((zeros 257).byte ((0 : Imm).toNat + k)) v) ∧
      (zeros 0).len.toNat = 0 ∧
      ((withBytes 0 [0x47] (zeros 1)).len.toNat = 1 ∧ ∀ v, ¬ IsHexDigit ((withBytes 0 [0x47] (zeros 1)).byte 0) v) := by
  refine ⟨by decide +kernel, by decide +kernel, ⟨by decide +kernel, by decide +kernel, by decide +kernel, zeros_digits 256⟩,
    ⟨by decide +kernel, by decide +kernel, zeros_digits 257⟩, by decide +kernel, by decide +kernel, ?_⟩
  have h : (withBytes 0 [0x47] (zeros 1)).byte 0 = 0x47 := by decide +kernel
  rintro v (⟨_, hv⟩ | ⟨_, _, hv⟩) <;> rw [h] at hv
  · have : (0x47 : Byte).toNat = 71 := rfl
    omega
  · have : (0x47 : Byte).toNat = 71 := rfl
    omega

theorem test_witness_SthexStoresUpperCaseDigits :
    (3841 : Imm).toNat + regLen 0 / 4 > Config.bufSize ∧ (3840 : Imm).toNat + regLen 0 / 4 ≤ Config.bufSize ∧
      (3584 : Imm).toNat + regLen 24 / 4 ≤ Config.bufSize := by decide

theorem test_witness_StoredValuesLoadBack :
    regLen 0 = regLen 23 ∧ State.reset.tabActive 23 = false ∧ (3968 : Imm).toNat + regLen 0 / 8 ≤ Config.bufSize ∧
      (3840 : Imm).toNat + regLen 0 / 4 ≤ Config.bufSize := by decide +kernel

/-! ### The modular engine and exponentiation -/

theorem test_witness_TabinitBuildsTheTable :
    24 ≤ (24 : Reg).toNat ∧ ((23 : Reg).toNat < 24 ∧ (opened 23 17 .reset).tabActive 23 = true) ∧
      (State.reset.tabActive 23 = false ∧ State.reset.x 23 = 0) ∧
      ((withX [(23, 1)] .reset).tabActive 23 = false ∧ (withX [(23, 1)] .reset).x 23 ≠ 0) := by decide +kernel

theorem test_witness_TabshutClosesTheTable :
    keyed.pstate = .keysGenerated ∧ 24 ≤ (24 : Reg).toNat ∧ ((23 : Reg).toNat < 24 ∧ State.reset.tabActive 23 = false) ∧
      ¬ ((17 = 16 ∨ 17 = 17 ∨ 17 = 18) ∧ (opened 17 5 .reset).pstate = .keysGenerated) ∧
      (opened 17 5 .reset).tabActive 17 = true := by decide +kernel

/-- Tables of 17 in `X1` and of 16 in `X2`. -/
def tabled : State := opened 2 16 (opened 1 17 .reset)

theorem tabled_inv1 : TableInv tabled 1 :=
  tableInv_of_tableOf (by decide +kernel) (by decide +kernel) (by decide +kernel)
theorem tabled_inv2 : TableInv tabled 2 :=
  tableInv_of_tableOf (by decide +kernel) (by decide +kernel) (by decide +kernel)

/-- Values of 9 bits (the limit for 17) and of 10 bits. -/
theorem test_witness_ModComputesTheRemainder :
    TableInv tabled 1 ∧ 24 ≤ (24 : Reg).toNat ∧ ((23 : Reg).toNat < 24 ∧ tabled.tabActive 23 = false) ∧
      (tabled.tabActive 1 = true ∧ tabled.tabActive 2 = true) ∧
      (tabled.tabActive 3 = false ∧ bitlen ((withX [(3, 512)] tabled).x 3) > 2 * msbOf (tabled.x 1) + 1) ∧
      bitlen ((withX [(3, 511)] tabled).x 3) ≤ 2 * msbOf (tabled.x 1) + 1 :=
  ⟨tabled_inv1, by decide +kernel⟩

theorem test_witness_MulmontRunsTheLoop :
    TableInv tabled 2 ∧ 24 ≤ (24 : Reg).toNat ∧ ((23 : Reg).toNat < 24 ∧ tabled.tabActive 23 = false) ∧
      (tabled.tabActive 2 = true ∧ tabled.tabActive 1 = true) ∧
      (tabled.tabActive 3 = false ∧ (withX [(3, 15)] tabled).x 3 < tabled.x 2) ∧
      (2 ^ bitlen 16 ≤ montResidue 31 36 16 (msbOf 16) ∧ montResidue 31 35 16 (msbOf 16) < 2 ^ bitlen 16) ∧
      2 ^ bitlen 17 ≤ montResidue 31 39 17 (msbOf 17) :=
  ⟨tabled_inv2, by decide +kernel⟩

/-- The loop as one number, on the values of R124 and R125: `3 * 5` over 17 and `0x4B * 0x4B` over `0x6D`. -/
theorem test_montgomery_number :
    montResidue 3 5 17 4 * 2 ^ 5 % 17 = 15 ∧ montResidue 0x4B 0x4B 0x6D 6 = 0x65 ∧
      montResidue 0x4B 0x4B 0x6D 6 * 2 ^ 7 % 0x6D = 0x42 := by decide +kernel

theorem test_witness_MulmontIsModularMultiplication :
    TableInv tabled 1 ∧ tabled.tabActive 1 = true ∧ tabled.tabActive 3 = false ∧ tabled.x 1 % 2 = 1 ∧
      (withX [(3, 16)] tabled).x 3 < tabled.x 1 :=
  ⟨tabled_inv1, by decide +kernel⟩

theorem test_witness_ExpIsModularExponentiation :
    TableInv tabled 1 ∧ 24 ≤ (31 : Reg).toNat ∧ ((23 : Reg).toNat < 24 ∧ tabled.tabActive 23 = false) ∧
      (tabled.tabActive 1 = true ∧ tabled.tabActive 2 = true ∧ tabled.tabActive 3 = false ∧ tabled.x 1 % 2 = 1) ∧
      bitlen ((withX [(3, 512)] tabled).x 3) > 2 * msbOf (tabled.x 1) + 1 ∧
      bitlen ((withX [(3, 511)] tabled).x 3) ≤ 2 * msbOf (tabled.x 1) + 1 :=
  ⟨tabled_inv1, by decide +kernel⟩

theorem test_witness_ExpWithEvenModulusCompletes :
    TableInv tabled 2 ∧ tabled.tabActive 2 = true ∧ tabled.tabActive 3 = false ∧ tabled.x 2 % 2 = 0 ∧
      bitlen ((withX [(3, 511)] tabled).x 3) ≤ 2 * msbOf (tabled.x 2) + 1 :=
  ⟨tabled_inv2, by decide +kernel⟩

/-! ### Primality and generation -/

/-- A value under test and the next draw. -/
def underTest (n x : Nat) : State := fed (wordsOf x) (withX [(0, n)] .reset)

/-- 12 passes a round on 13, as 12 squared is 1 and `12^3` is 12. -/
theorem strong_13_12 : StrongProbablePrime 13 12 :=
  ⟨by decide, 2, 3, by decide, by decide, .inr ⟨0, by decide, by decide⟩⟩

theorem test_witness_MrtestRunsMillerRabinRounds :
    24 ≤ (24 : Reg).toNat ∧ (withX [(0, 2)] .reset).x 0 < 3 ∧ ((opened 0 3 .reset).tabActive 0 = true ∧ 3 ≤ (opened 0 3 .reset).x 0) ∧
      ((underTest 13 12).tabActive 0 = false ∧ 3 ≤ (underTest 13 12).x 0 ∧ witnessOf 13 (underTest 13 12).draws = 12) ∧
      ¬ (1 < witnessOf 13 (underTest 13 13).draws ∧ witnessOf 13 (underTest 13 13).draws < 13) ∧
      ¬ (1 < witnessOf 13 (underTest 13 1).draws ∧ witnessOf 13 (underTest 13 1).draws < 13) ∧
      StrongProbablePrime 13 12 ∧
      (witnessOf 15 (underTest 15 5).draws = 5 ∧ 15 % 2 = 1 ∧ Nat.gcd 5 15 ≠ 1 ∧ ¬ StrongProbablePrime 15 5) ∧
      (1 : Imm) ≠ 0 := by
  refine ⟨by decide, by decide +kernel, by decide +kernel, by decide +kernel, by decide +kernel, by decide +kernel,
    strong_13_12, ⟨by decide +kernel, by decide, by decide, fun h => ?_⟩, by decide⟩
  exact absurd h.1 (by decide)

/-- MRTEST of 13 with the draw 2 completes at once, and after a redraw. -/
theorem test_witness_MrtestAcceptsEveryPrime :
    (13 : Nat).Prime ∧ (underTest 13 2).x 0 = 13 ∧ (underTest 13 2).tabActive 0 = false ∧
      gives (exec (.mrtest 0 1) (underTest 13 2)) (fun t => t.run == none) = true ∧
      (fed (wordsOf 2) running).run = some (.mrtest 0 1) ∧ (fed (wordsOf 2) running).x 0 = 13 ∧
      (coreWork (fed (wordsOf 2) running)).run = none :=
  ⟨by norm_num, by decide +kernel⟩

/-- A candidate that fails the screen and one that passes it; a round that ends, one that rejects, one that redraws. -/
theorem test_witness_PrimeSearchFollowsTheRetryLoop :
    screened .full (candidateOf .full (randFill 1024 (underTest 0 0).draws).1) = false ∧
      screened .full (candidateOf .full (randFill 1024 fullDraws).1) = true ∧
      screened .half (candidateOf .half (randFill 1024 pairDraws).1) = true ∧
      (millerRabin 13 1 (underTest 13 12).draws).1 = .prime ∧ (millerRabin 15 1 (underTest 15 5).draws).1 = .composite ∧
      (millerRabin 13 1 (underTest 13 13).draws).1 = .redraw 1 ∧
      (witnessOf 13 (underTest 13 12).draws = 12 ∧ witnessOf 13 (underTest 13 13).draws = 13 ∧
        witnessOf 15 (underTest 15 5).draws = 5) ∧
      (searchPrime .half none pairDraws).1 = .found halfCandidate ∧
      (searchPrime .half none (fed (wordsOf 1) .reset).draws).1 = .retry none :=
  ⟨by decide +kernel, by decide +kernel, by decide +kernel, by decide +kernel, by decide +kernel, by decide +kernel,
    by decide +kernel, by rw [searchFirst_half], by decide +kernel⟩

/-- Words for which the search of GENPRIME ends, and for which it retries. -/
theorem test_witness_GenprimeWritesTheFoundPrime :
    24 ≤ (24 : Reg).toNat ∧ ((23 : Reg).toNat < 24 ∧ (opened 23 17 .reset).tabActive 23 = true) ∧
      State.reset.tabActive 23 = false ∧
      (searchPrime .full none (State.reset.setDraws fullDraws).draws).1 = .found fullCandidate ∧
      (searchPrime .full none (fed (wordsOf 0) .reset).draws).1 = .retry none :=
  ⟨by decide, by decide +kernel, by decide +kernel, test_witness_search_full, by decide +kernel⟩

theorem test_witness_GenblumWritesTheProductOfTwoPrimes :
    ((0 : Reg) ≠ 1 ∧ (0 : Reg) ≠ 23 ∧ (1 : Reg) ≠ 23 ∧ (0 : Reg) ≠ 24 ∧ 24 ≤ (24 : Reg).toNat) ∧
      (opened 1 17 .reset).tabActive 1 = true ∧
      (State.reset.tabActive 0 = false ∧ State.reset.tabActive 1 = false ∧ State.reset.tabActive 23 = false) ∧
      (searchPair none none (State.reset.setDraws pairDraws).draws).1 = .found halfCandidate halfCandidate ∧
      (searchPair none none (fed (wordsOf 1) .reset).draws).1 = .retry none none :=
  ⟨by decide, by decide +kernel, by decide +kernel, test_witness_search_pair, by decide +kernel⟩

theorem test_witness_GcdIsTheGreatestCommonDivisor :
    ¬ (regLen 0 = regLen 1 ∧ regLen 1 = regLen 24) ∧ ((opened 0 17 .reset).tabActive 0 = true ∧ regLen 0 = regLen 23) ∧
      (regLen 24 = regLen 31 ∧ State.reset.tabActive 24 = false) := by decide +kernel

theorem reset_has_no_table (r : Reg) : State.reset.tabActive r = false := by
  revert r; decide +kernel

/-- A command between two retries, in a machine that has no table open and no keys. -/
def jobState (j : Job) (d : Draws) : State := { State.reset with run := some j, draws := d }

theorem jobState_inv {j : Job} {d : Draws} (h : RunInv (jobState j d)) : Inv (jobState j d) := by
  refine ⟨fun r => tableInv_of_inactive (reset_has_no_table r), ?_, h, ?_, ⟨rfl, rfl⟩, by simp [jobState, State.reset]⟩
  · rintro (h | h) <;> simp [jobState, State.reset] at h
  · exact ⟨fun _ => ⟨rfl, rfl⟩, fun h => by simp [jobState, State.reset] at h⟩

theorem fullCandidate_shape : FullShape fullCandidate := by
  unfold FullShape; decide +kernel
theorem halfCandidate_shape : HalfShape halfCandidate := by
  unfold HalfShape; decide +kernel

/-- The words of one last witness. -/
def lastRound (n : Nat) : Draws := { queue := wordsOf (n - 1), rngPos := 0, freePos := 0 }

/-- The last round of the last candidate of GENPRIME, GENBLUM and KEYGEN. -/
def genprimeJob : State := jobState (.genprime 23 (some { value := fullCandidate, rounds := 1 })) (lastRound fullCandidate)
def genblumJob : State :=
  jobState (.blum (.genblum 0 1 2) (some halfCandidate) (some { value := halfCandidate, rounds := 1 }))
    (lastRound halfCandidate)
def keygenJob : State :=
  jobState (.blum .keygen (some halfCandidate) (some { value := halfCandidate, rounds := 1 })) (lastRound halfCandidate)

def genblumnJob : State :=
  jobState (.blum (.genblumn 23) (some halfCandidate) (some { value := halfCandidate, rounds := 1 }))
    (lastRound halfCandidate)

theorem genprimeJob_inv : Inv genprimeJob :=
  jobState_inv ⟨by decide, reset_has_no_table 23, ⟨fullCandidate_shape, by decide, by decide⟩, by
    simp [jobState, State.reset]⟩

theorem genblumJob_inv : Inv genblumJob :=
  jobState_inv ⟨⟨by decide, fun r h => by rcases h with rfl | rfl | rfl <;> exact ⟨by decide, reset_has_no_table _⟩⟩,
    halfCandidate_shape, ⟨halfCandidate_shape, by decide, by decide⟩, by simp [jobState, State.reset]⟩

theorem genblumnJob_inv : Inv genblumnJob :=
  jobState_inv ⟨⟨by decide, reset_has_no_table 23⟩, halfCandidate_shape, ⟨halfCandidate_shape, by decide, by decide⟩, by
    simp [jobState, State.reset]⟩

theorem keygenJob_inv : Inv keygenJob :=
  jobState_inv ⟨⟨.inl rfl, reset_has_no_table _, reset_has_no_table _, reset_has_no_table _⟩,
    halfCandidate_shape, ⟨halfCandidate_shape, by decide, by decide⟩, by simp [jobState, State.reset]⟩

theorem lastRound_full : (randFill Config.lenS (lastRound fullCandidate)).1 % 2 ^ bitlen fullCandidate = fullCandidate - 1 := by
  decide +kernel
theorem lastRound_half : (randFill Config.lenS (lastRound halfCandidate)).1 % 2 ^ bitlen halfCandidate = halfCandidate - 1 := by
  decide +kernel

theorem genprimeJob_finds :
    (searchPrime .full (some { value := fullCandidate, rounds := 1 }) (lastRound fullCandidate)).1 = .found fullCandidate := by
  simp [searchPrime, testCandidate, millerRabin_lastWitness fullCandidate_passes lastRound_full]

/-- The last round of GENBLUM, GENBLUMN and KEYGEN ends their search. -/
theorem pairJob_finds :
    (searchPair (some halfCandidate) (some { value := halfCandidate, rounds := 1 }) (lastRound halfCandidate)).1 =
      .found halfCandidate halfCandidate := by
  simp [searchPair, searchSecond, searchPrime, testCandidate, millerRabin_lastWitness halfCandidate_passes lastRound_half]

theorem genprimeJob_ends : (coreWork genprimeJob).run = none := by
  simp [coreWork, genprimeJob, jobState, resume, resumeGenprime, genprimeJob_finds]

theorem genblumJob_ends : (coreWork genblumJob).run = none := by
  simp [coreWork, genblumJob, jobState, resume, resumeBlum, pairJob_finds]

theorem genblumnJob_ends : (coreWork genblumnJob).run = none := by
  simp [coreWork, genblumnJob, jobState, resume, resumeBlum, pairJob_finds]

theorem keygenJob_ends : (coreWork keygenJob).run = none ∧ (coreWork keygenJob).pstate = .keysGenerated := by
  simp [coreWork, keygenJob, jobState, resume, resumeBlum, pairJob_finds, storePrimes]

/-- The commands that find their primes at once, in a machine with no table open. -/
def fullStart : State := State.reset.setDraws fullDraws
def pairStart : State := State.reset.setDraws pairDraws

theorem fullStart_runs : exec (.genprime 23) fullStart = .next (resumeGenprime 23 none fullStart) := by
  unfold exec execGenprime; exact guarded_of_none (by decide +kernel) _ _ _
theorem pairStart_runs :
    exec (.genblum 0 1 2) pairStart = .next (resumeBlum (.genblum 0 1 2) none none pairStart) ∧
      exec (.genblumn 23) pairStart = .next (resumeBlum (.genblumn 23) none none pairStart) ∧
      exec .keygen pairStart = .next (resumeBlum .keygen none none pairStart) := by
  unfold exec execGenblum execGenblumn execKeygen
  exact ⟨guarded_of_none (by decide +kernel) _ _ _, guarded_of_none (by decide +kernel) _ _ _,
    guarded_of_none (by decide +kernel) _ _ _⟩

theorem fullStart_ends : (coreWork^[0] (resumeGenprime 23 none fullStart)).run = none := by
  have h : (searchPrime .full none fullStart.draws).1 = .found fullCandidate := test_witness_search_full
  simp [resumeGenprime, h]

theorem pairStart_ends (dest : BlumDest) : (coreWork^[0] (resumeBlum dest none none pairStart)).run = none := by
  have h : (searchPair none none pairStart.draws).1 = .found halfCandidate halfCandidate := test_witness_search_pair
  simp [resumeBlum, h]

theorem test_witness_GeneratedValuesPassTrialDivision :
    ((Inv genprimeJob ∧ genprimeJob.run = some (.genprime 23 (some { value := fullCandidate, rounds := 1 })) ∧
        (coreWork genprimeJob).run = none) ∧
      (Inv genblumJob ∧ (coreWork genblumJob).run = none) ∧ (Inv genblumnJob ∧ (coreWork genblumnJob).run = none) ∧
      (Inv keygenJob ∧ (coreWork keygenJob).run = none)) ∧
    (fullStart.tabActive 23 = false ∧ exec (.genprime 23) fullStart = .next (resumeGenprime 23 none fullStart) ∧
      (coreWork^[0] (resumeGenprime 23 none fullStart)).run = none) ∧
    (pairwiseDifferent 0 1 2 = true ∧ (∀ r : Reg, pairStart.tabActive r = false) ∧ pairStart.pstate = .uninitialized) ∧
    exec (.genblum 0 1 2) pairStart = .next (resumeBlum (.genblum 0 1 2) none none pairStart) ∧
    exec (.genblumn 23) pairStart = .next (resumeBlum (.genblumn 23) none none pairStart) ∧
    exec .keygen pairStart = .next (resumeBlum .keygen none none pairStart) ∧
    ∀ dest, (coreWork^[0] (resumeBlum dest none none pairStart)).run = none :=
  ⟨⟨⟨genprimeJob_inv, rfl, genprimeJob_ends⟩, ⟨genblumJob_inv, genblumJob_ends⟩, ⟨genblumnJob_inv, genblumnJob_ends⟩,
      ⟨keygenJob_inv, keygenJob_ends.1⟩⟩,
    ⟨by decide +kernel, fullStart_runs, fullStart_ends⟩, ⟨by decide, by decide +kernel, rfl⟩, pairStart_runs.1,
    pairStart_runs.2.1, pairStart_runs.2.2, pairStart_ends⟩

/-! ### The protocol -/

theorem test_witness_KeygenWritesAKeyPair :
    ¬ (keyed.pstate = .uninitialized ∨ keyed.pstate = .finalized) ∧
      ((opened 18 17 .reset).pstate = .uninitialized ∧ (opened 18 17 .reset).tabActive 18 = true) ∧
      (State.reset.pstate = .uninitialized ∧ State.reset.tabActive 16 = false ∧ State.reset.tabActive 17 = false ∧
        State.reset.tabActive 18 = false) ∧
      (searchPair none none (State.reset.setDraws pairDraws).draws).1 = .found halfCandidate halfCandidate ∧
      (searchPair none none (fed (wordsOf 1) .reset).draws).1 = .retry none none :=
  ⟨by decide +kernel, by decide +kernel, by decide +kernel, test_witness_search_pair, by decide +kernel⟩

theorem keyed_holds : KeysHeld keyed := by
  unfold KeysHeld HalfShape; decide +kernel
theorem keyed_inv16 : TableInv keyed 16 :=
  tableInv_of_tableOf (by decide +kernel) (by decide +kernel) (by decide +kernel)
theorem keyed_inv17 : TableInv keyed 17 :=
  tableInv_of_tableOf (by decide +kernel) (by decide +kernel) (by decide +kernel)
theorem keyed_inv18 : TableInv keyed 18 :=
  tableInv_of_tableOf (by decide +kernel) (by decide +kernel) (by decide +kernel)

/-- Which of the two last clauses of SIGN holds depends on the hash function, which has no body; together they leave no
case out. -/
theorem test_witness_SignWritesTheSignature :
    State.reset.pstate ≠ .keysGenerated ∧
      (keyed.pstate = .keysGenerated ∧ (4095 : Imm).toNat + { keyed with len := 2 }.len.toNat > Config.bufSize ∧
        (4096 : Imm).toNat + keyed.len.toNat ≤ Config.bufSize) ∧
      ((opened 20 17 keyed).tabActive 20 = true ∧ (opened 20 17 keyed).pstate = .keysGenerated) ∧
      (keyed.tabActive 19 = false ∧ keyed.tabActive 20 = false ∧ KeysHeld keyed ∧ TableInv keyed 17 ∧ TableInv keyed 18) :=
  ⟨by decide, by decide +kernel, by decide +kernel, by decide +kernel, by decide +kernel, keyed_holds, keyed_inv17, keyed_inv18⟩

theorem test_witness_VerifyChecksTheSquare :
    State.reset.pstate ≠ .keysGenerated ∧
      (keyed.pstate = .keysGenerated ∧ (4095 : Imm).toNat + { keyed with len := 2 }.len.toNat > Config.bufSize ∧
        (4096 : Imm).toNat + keyed.len.toNat ≤ Config.bufSize) ∧ KeysHeld keyed ∧ TableInv keyed 16 :=
  ⟨by decide, by decide +kernel, keyed_holds, keyed_inv16⟩

theorem test_witness_KeyfinClosesTheKeyTables :
    State.reset.pstate ≠ .keysGenerated ∧ keyed.pstate = .keysGenerated := by decide +kernel

/-- 23 is a square modulo 7 and modulo 11; its root is 67. -/
theorem test_witness_GarnerRootSquaresToTheHash :
    (7 : Nat).Prime ∧ (11 : Nat).Prime ∧ 7 % 4 = 3 ∧ 11 % 4 = 3 ∧ ResidueForBoth 7 11 23 ∧ garnerRoot 7 11 23 = 67 :=
  ⟨by norm_num, by norm_num, by decide, by decide, ⟨by decide, by decide⟩, by decide⟩

/-- `x` cubed `k` times modulo `p`. -/
def cubes (p : Nat) : Nat → Nat → Nat
  | 0, x => x
  | k + 1, x => evalFirst (x * x % p * x % p) fun y => cubes p k y

theorem cubes_eq (p k x : Nat) : ((cubes p k x : Nat) : ZMod p) = (x : ZMod p) ^ 3 ^ k := by
  induction k generalizing x with
  | zero => simp [cubes]
  | succ k ih =>
    rw [cubes, evalFirst_eq, ih, pow_succ' 3, pow_mul]
    congr 1
    simp [ZMod.natCast_mod, Nat.cast_mul, pow_succ]

/-- Lucas's test for `2 * 3^k + 1`. -/
theorem prime_of_cubes {k a : Nat} (h1 : cubes (2 * 3 ^ k + 1) k (a ^ 2) % (2 * 3 ^ k + 1) = 1)
    (h2 : cubes (2 * 3 ^ k + 1) k a % (2 * 3 ^ k + 1) ≠ 1)
    (h3 : cubes (2 * 3 ^ k + 1) (k - 1) (a ^ 2) % (2 * 3 ^ k + 1) ≠ 1) (hk : 0 < k) : (2 * 3 ^ k + 1).Prime := by
  have hp : 1 < 2 * 3 ^ k + 1 := by
    have : 0 < 3 ^ k := by positivity
    omega
  have cast1 : ∀ x : Nat, (x : ZMod (2 * 3 ^ k + 1)) = 1 ↔ x % (2 * 3 ^ k + 1) = 1 := by
    intro x
    have := ZMod.natCast_eq_natCast_iff' x 1 (2 * 3 ^ k + 1)
    rw [Nat.cast_one, Nat.mod_eq_of_lt hp] at this
    exact this
  refine lucas_primality _ (a : ZMod _) ?_ ?_
  · rw [Nat.add_sub_cancel, pow_mul, ← Nat.cast_pow, ← cubes_eq, cast1]
    exact h1
  · intro q hq hd
    rw [Nat.add_sub_cancel] at hd ⊢
    have : q = 2 ∨ q = 3 := by
      rcases (Nat.Prime.dvd_mul hq).1 hd with h | h
      · exact .inl ((Nat.prime_dvd_prime_iff_eq hq Nat.prime_two).1 h)
      · exact .inr ((Nat.prime_dvd_prime_iff_eq hq Nat.prime_three).1 (hq.dvd_of_dvd_pow h))
    rcases this with rfl | rfl
    · rw [Nat.mul_div_cancel_left _ (by norm_num), ← cubes_eq, Ne, cast1]
      exact h2
    · obtain ⟨j, rfl⟩ : ∃ j, k = j + 1 := ⟨k - 1, by omega⟩
      have : 2 * 3 ^ (j + 1) / 3 = 2 * 3 ^ j := by rw [pow_succ, ← mul_assoc, Nat.mul_div_cancel _ (by norm_num)]
      rw [this, pow_mul, ← Nat.cast_pow, ← cubes_eq, Ne, cast1]
      exact h3

def provenP : Nat := 2 * 3 ^ 180 + 1
def provenQ : Nat := 2 * 3 ^ 320 + 1

theorem provenP_prime : provenP.Prime :=
  prime_of_cubes (a := 5) (by decide +kernel) (by decide +kernel) (by decide +kernel) (by decide)
theorem provenQ_prime : provenQ.Prime :=
  prime_of_cubes (a := 2) (by decide +kernel) (by decide +kernel) (by decide +kernel) (by decide)

/-- Keys whose primes are proven to be primes. -/
def provenKeys : State :=
  (((((withX [(17, provenP), (18, provenQ), (16, provenP * provenQ)] .reset).openTab 16).openTab 17).openTab 18)).setPstate
    .keysGenerated

theorem provenKeys_tables : ∀ r : Reg, r = 16 ∨ r = 17 ∨ r = 18 →
    provenKeys.tabActive r = true ∧ TableInv provenKeys r := by
  rintro r (rfl | rfl | rfl) <;>
    exact ⟨by decide +kernel, tableInv_of_tableOf (by decide +kernel) (by decide +kernel) (by decide +kernel)⟩

theorem provenKeys_values : provenKeys.x 17 = provenP ∧ provenKeys.x 18 = provenQ ∧
    provenKeys.x 16 = provenP * provenQ := by decide +kernel

/-- Keys with proven primes, and a SIGN given to them that answers a next state; and one that has come to a retry. -/
theorem test_witness_SignedMessageVerifies :
    ((provenKeys.x 17).Prime ∧ (provenKeys.x 18).Prime) ∧
      (provenKeys.x 17 ≠ provenKeys.x 18 ∧ provenKeys.x 17 % 4 = 3 ∧ provenKeys.x 18 % 4 = 3 ∧
        2 ^ 256 ≤ provenKeys.x 17 ∧ provenKeys.x 17 < 2 ^ 512 ∧ 2 ^ 256 ≤ provenKeys.x 18 ∧ provenKeys.x 18 < 2 ^ 512 ∧
        provenKeys.x 16 = provenKeys.x 17 * provenKeys.x 18) ∧
      (∀ r : Reg, r = 16 ∨ r = 17 ∨ r = 18 → provenKeys.tabActive r = true ∧ TableInv provenKeys r) ∧
      (provenKeys.tabActive 19 = false ∧ provenKeys.tabActive 20 = false ∧
        (4096 : Imm).toNat + provenKeys.len.toNat ≤ Config.bufSize ∧ provenKeys.pstate = .keysGenerated) ∧
      (∃ t, exec (.sign 4096) provenKeys = .next t) ∧
      ((provenKeys.setPstate .signing).keepRunning (.sign 4096)).run = some (.sign 4096) := by
  refine ⟨?_, by decide +kernel, provenKeys_tables, by decide +kernel, ⟨resumeSign 4096 provenKeys, ?_⟩, rfl⟩
  · rw [provenKeys_values.1, provenKeys_values.2.1]
    exact ⟨provenP_prime, provenQ_prime⟩
  · unfold exec execSign
    exact guarded_of_none (by decide +kernel) _ _ _

/-! ### The whole machine -/

/-- A machine that waits for a new witness, with the table of the value under test open. -/
theorem testing_inv {n : Nat} (h0 : TableInv (testing n) 0) (h3 : 3 ≤ (testing n).x 0)
    (ha : ∀ r : Reg, (testing n).tabActive r = decide (r = 0)) (hp : (testing n).pstate = .uninitialized)
    (hb : (testing n).buf = []) (hf : (testing n).fault = false ∧ (testing n).fcause = .noFault ∧ (testing n).fcmd = 0) :
    Inv (testing n) := by
  refine ⟨fun r => ?_, ?_, ?_, ⟨fun _ => hf.2, fun h => absurd h (by simp [hf.1])⟩, ⟨by rw [hb]; rfl, by rw [hb]; rfl⟩,
    by simp [hp]⟩
  · by_cases h : r = 0
    · exact h ▸ h0
    · exact tableInv_of_inactive (by rw [ha]; exact decide_eq_false h)
  · rintro (h | h) <;> simp [hp] at h
  · exact ⟨by decide, h3, by simp [ha], by decide, by simp [hp], fun h => by simp [hp] at h⟩

theorem running_inv : Inv running :=
  testing_inv (tableInv_of_tableOf (by decide +kernel) (by decide +kernel) (by decide +kernel)) (by decide +kernel)
    (by decide +kernel) (by decide +kernel) (by decide +kernel) (by decide +kernel)

theorem testing15_inv : Inv (testing 15) :=
  testing_inv (tableInv_of_tableOf (by decide +kernel) (by decide +kernel) (by decide +kernel)) (by decide +kernel)
    (by decide +kernel) (by decide +kernel) (by decide +kernel) (by decide +kernel)

/-- The invariant does not speak of the words to come. -/
theorem inv_fed {s : State} (h : Inv s) (words : List Word) : Inv (fed words s) := h

/-- A SIGN that has come to a retry. -/
def signJob : State := (keyed.setPstate .signing).keepRunning (.sign 0)

theorem signJob_inv : Inv signJob := by
  have open16 : TableInv signJob 16 := tableInv_of_tableOf (by decide +kernel) (by decide +kernel) (by decide +kernel)
  have open17 : TableInv signJob 17 := tableInv_of_tableOf (by decide +kernel) (by decide +kernel) (by decide +kernel)
  have open18 : TableInv signJob 18 := tableInv_of_tableOf (by decide +kernel) (by decide +kernel) (by decide +kernel)
  have other : ∀ r : Reg, r ≠ 16 → r ≠ 17 → r ≠ 18 → signJob.tabActive r = false := by decide +kernel
  have runs : signJob.run = some (.sign 0) := by decide +kernel
  refine ⟨fun r => ?_, fun _ => ?_, ?_, ⟨fun _ => by decide +kernel, fun h => absurd h (by decide +kernel)⟩,
    by unfold BufInv; decide +kernel, by decide +kernel⟩
  · by_cases h16 : r = 16
    · exact h16 ▸ open16
    by_cases h17 : r = 17
    · exact h17 ▸ open17
    by_cases h18 : r = 18
    · exact h18 ▸ open18
    exact tableInv_of_inactive (other r h16 h17 h18)
  · unfold KeysHeld HalfShape; decide +kernel
  · unfold RunInv; rw [runs]; decide +kernel

/-- The searches of GENPRIME and of a pair at their first retry. -/
theorem retryJob_inv (d : Draws) : Inv (jobState (.genprime 23 none) d) ∧ Inv (jobState (.blum .keygen none none) d) :=
  ⟨jobState_inv ⟨by decide, reset_has_no_table 23, trivial, by simp [jobState, State.reset]⟩,
    jobState_inv ⟨⟨.inl rfl, reset_has_no_table _, reset_has_no_table _, reset_has_no_table _⟩, trivial, trivial, by
      simp [jobState, State.reset]⟩⟩

/-- Each running command in a state of the invariant, with words that end it and words that do not. Which of the two clauses
of SIGN holds depends on the hash function, which has no body; together they leave no case out. -/
theorem test_witness_RunningCommandGoesOn :
    ((facing .wait running).agenda = .wait :: [] ∧ State.reset.agenda = [] ∧ State.reset.run = none) ∧
    ((∀ words, Inv (fed words running)) ∧ running.run = some (.mrtest 0 1) ∧ running.x 0 = 13 ∧
      (millerRabin 13 1 (fed (wordsOf 2) running).draws).1 = .prime ∧
      (millerRabin 13 1 (fed (wordsOf 13) running).draws).1 = .redraw 1) ∧
    (Inv (fed (wordsOf 5) (testing 15)) ∧ (testing 15).x 0 = 15 ∧
      (millerRabin 15 1 (fed (wordsOf 5) (testing 15)).draws).1 = .composite) ∧
    (Inv genprimeJob ∧
      (searchPrime .full (some { value := fullCandidate, rounds := 1 }) genprimeJob.draws).1 = .found fullCandidate) ∧
    (Inv genblumJob ∧ Inv genblumnJob ∧ Inv keygenJob ∧
      (searchPair (some halfCandidate) (some { value := halfCandidate, rounds := 1 }) keygenJob.draws).1 =
        .found halfCandidate halfCandidate) ∧
    ((∀ d, Inv (jobState (.genprime 23 none) d) ∧ Inv (jobState (.blum .keygen none none) d)) ∧
      (searchPrime .full none (fed (wordsOf 0) .reset).draws).1 = .retry none ∧
      (searchPair none none (fed (wordsOf 1) .reset).draws).1 = .retry none none) ∧
    Inv signJob ∧ signJob.run = some (.sign 0) :=
  ⟨by decide +kernel, ⟨inv_fed running_inv, by decide +kernel⟩, ⟨inv_fed testing15_inv _, by decide +kernel⟩,
    ⟨genprimeJob_inv, genprimeJob_finds⟩, ⟨genblumJob_inv, genblumnJob_inv, keygenJob_inv, pairJob_finds⟩,
    ⟨retryJob_inv, by decide +kernel⟩, signJob_inv, by decide +kernel⟩

theorem test_witness_ProtectedRegistersAreNeverWritten :
    (gives (exec (.add 0 0) (opened 0 17 .reset)) (fun t => t.fault) = true ∧ (opened 0 17 .reset).tabActive 0 = true) ∧
      Inv signJob ∧ signJob.tabActive 16 = true :=
  ⟨by decide +kernel, signJob_inv, by decide +kernel⟩

theorem test_witness_FlagsAreWrittenOnlyByTheirCommands :
    (gives (exec (.shl 24 1) .reset) (fun t => !t.fault) = true ∧ (∀ rd ra, Instr.shl 24 1 ≠ .add rd ra)) ∧
      (∀ rd k, signJob.run ≠ some (.mrtest rd k)) ∧ (∀ f c, running.run ≠ some (.blum .keygen f c)) ∧
      ∀ a, running.run ≠ some (.sign a) := by
  refine ⟨⟨by decide +kernel, ?_⟩, ?_, ?_, ?_⟩ <;> intros <;> simp [signJob, running, testing]

/-- Two states that differ in CF and TF, and a command that completes from both. -/
theorem test_witness_FlagsAreNeverInputs :
    AgreeButFlags State.reset ((State.reset.setCf true).setTf true) ∧
      gives (exec (.tdiv 0) .reset) (fun t => !t.cf && !t.tf) = true ∧
      gives (exec (.tdiv 0) ((State.reset.setCf true).setTf true)) (fun t => t.cf && !t.tf) = true ∧
      AgreeButFlags running ((running.setCf true).setTf true) :=
  ⟨rfl, by decide +kernel, by decide +kernel, rfl⟩

theorem test_witness_ProtocolStateFollowsItsTable :
    (gives (exec .keyfin keyed) (fun t => t.pstate != keyed.pstate) = true) ∧
      (Inv keygenJob ∧ (coreWork keygenJob).pstate ≠ keygenJob.pstate) := by
  refine ⟨by decide +kernel, keygenJob_inv, ?_⟩
  rw [keygenJob_ends.2]
  decide

theorem test_witness_EveryStepKeepsTheInvariant :
    Inv running ∧ ∃ t, step (fed (wordsOf 2) running) = .next t := ⟨running_inv, ⟨_, rfl⟩⟩

end Sys2Proof.Tests
end

section
/-! SUPPORT. The value level of a block sequence (spec/10_state.md R12): cutting a value into blocks and summing the blocks
is the identity, the bits of the sum are the bits of the blocks, and what a changed or masked block does to them. The
widths are `n` blocks of 30 bits and a last block of `w` bits, the shape of `blockWidths`. -/

namespace Sys2Proof.Machine

/-! ## The widths of a register's blocks -/

/-- The block widths of a register add up to its length. -/
theorem blockBits_mul_add_lastBlockBits (r : Reg) :
    Config.blockBits * (blockCount (regLen r) - 1) + lastBlockBits (regLen r) = regLen r := by
  obtain h | h := regLen_cases r <;> rw [h] <;> rfl

theorem lastBlockBits_lt (len : Nat) : lastBlockBits len < Config.blockBits := Nat.mod_lt _ (by decide)

theorem blockCount_regLen_pos (r : Reg) : 0 < blockCount (regLen r) := by
  obtain h | h := regLen_cases r <;> rw [h] <;> decide

/-- The end of the block buffer, as the statements write it. -/
theorem blockBits_mul_blockCount (r : Reg) :
    Config.blockBits * blockCount (regLen r) = if r.toNat < 24 then 1050 else 2070 := by
  rw [regLen_eq]; split <;> rfl

theorem outsideBlocks_iff (r : Reg) (pos : Nat) :
    outsideBlocks (regLen r) pos = true ↔ (if r.toNat < 24 then 1050 else 2070) ≤ pos := by
  rw [outsideBlocks, blockBits_mul_blockCount, decide_eq_true_iff]

theorem outsideBlocks_eq_false_iff (r : Reg) (pos : Nat) :
    outsideBlocks (regLen r) pos = false ↔ pos < (if r.toNat < 24 then 1050 else 2070) := by
  rw [outsideBlocks, blockBits_mul_blockCount, decide_eq_false_iff_not, not_le]

/-! ## The value of the blocks -/

/-- One more block of 30 bits below multiplies the bound of the value by `2^30`. -/
theorem two_pow_widths_succ (n w : Nat) :
    2 ^ (Config.blockBits * (n + 1) + w) = 2 ^ Config.blockBits * 2 ^ (Config.blockBits * n + w) := by
  rw [← pow_add, mul_add_one, add_comm (Config.blockBits * n), add_assoc]

theorem ofBlocks_splitBlocks (n w v : Nat) (hv : v < 2 ^ (Config.blockBits * n + w)) :
    ofBlocks (splitBlocks (List.replicate n Config.blockBits ++ [w]) v) = v := by
  induction n generalizing v with
  | zero => simpa [splitBlocks, ofBlocks] using Nat.mod_eq_of_lt (by simpa using hv)
  | succ n ih =>
    rw [two_pow_widths_succ] at hv
    simp only [List.replicate_succ, List.cons_append, splitBlocks, ofBlocks, ih _ (Nat.div_lt_of_lt_mul hv)]
    exact Nat.mod_add_div _ _

theorem splitBlocks_lt (n w v : Nat) (hw : w ≤ Config.blockBits) :
    ∀ b ∈ splitBlocks (List.replicate n Config.blockBits ++ [w]) v, b < 2 ^ Config.blockBits := by
  induction n generalizing v with
  | zero =>
    have h := Nat.mod_lt v (Nat.two_pow_pos w)
    simpa [splitBlocks] using h.trans_le (Nat.pow_le_pow_right two_pos hw)
  | succ n ih =>
    simp only [List.replicate_succ, List.cons_append, splitBlocks, List.forall_mem_cons]
    exact ⟨Nat.mod_lt _ (Nat.two_pow_pos _), ih _⟩

/-- The bits of a block buffer are the bits of its value. -/
theorem testBit_ofBlocks {bs : List Nat} (h : ∀ b ∈ bs, b < 2 ^ Config.blockBits) (j : Nat) :
    (ofBlocks bs).testBit j = bitOfBlocks bs j := by
  induction bs generalizing j with
  | nil => simp [ofBlocks, bitOfBlocks]
  | cons b bs ih =>
    obtain ⟨hb, hbs⟩ := List.forall_mem_cons.1 h
    rw [ofBlocks, add_comm, Nat.testBit_two_pow_mul_add _ hb]
    unfold bitOfBlocks at ih ⊢
    split
    · next hj => rw [Nat.div_eq_of_lt hj, Nat.mod_eq_of_lt hj, List.getD_cons_zero]
    · next hj =>
      obtain ⟨k, rfl⟩ := Nat.exists_eq_add_of_le (not_lt.1 hj)
      rw [Nat.add_sub_cancel_left, ih hbs, Nat.add_div_left _ (by decide), Nat.add_mod_left, List.getD_cons_succ]

@[simp] theorem State.blocks_length (s : State) (r : Reg) : (s.blocks r).length = blockCount (regLen r) := by
  have := blockCount_regLen_pos r
  simp only [State.blocks, toBlocks, splitBlocks_length, blockWidths, List.length_append, List.length_replicate,
    List.length_singleton]
  omega

theorem State.ofBlocks_blocks (s : State) (r : Reg) : ofBlocks (s.blocks r) = s.x r :=
  ofBlocks_splitBlocks _ _ _ (by rw [blockBits_mul_add_lastBlockBits]; exact s.x_lt r)

theorem State.blocks_lt (s : State) (r : Reg) : ∀ b ∈ s.blocks r, b < 2 ^ Config.blockBits :=
  splitBlocks_lt _ _ _ (lastBlockBits_lt _).le

/-- The block buffer of a register shows the bits of its value. -/
theorem State.bitOfBlocks_blocks (s : State) (r : Reg) (j : Nat) : bitOfBlocks (s.blocks r) j = (s.x r).testBit j := by
  rw [← testBit_ofBlocks (s.blocks_lt r), s.ofBlocks_blocks]

/-! ## A changed block and the mask of the last block -/

@[simp] theorem changeBlock_length (f : Nat → Nat) (k : Nat) (bs : List Nat) :
    (changeBlock f k bs).length = bs.length := by
  induction bs generalizing k with
  | nil => cases k <;> rfl
  | cons b bs ih => cases k <;> simp [changeBlock, ih]

theorem changeBlock_getD (f : Nat → Nat) {k : Nat} {bs : List Nat} (hk : k < bs.length) (i : Nat) :
    (changeBlock f k bs).getD i 0 = if i = k then f (bs.getD i 0) else bs.getD i 0 := by
  induction bs generalizing k i with
  | nil => simp at hk
  | cons b bs ih =>
    cases k with
    | zero => cases i <;> simp [changeBlock]
    | succ k =>
      cases i with
      | zero => simp [changeBlock]
      | succ i => simpa [changeBlock] using ih (by simpa using hk) i

theorem changeBlock_lt {f : Nat → Nat} {m : Nat} (hf : ∀ b, b < m → f b < m) (k : Nat) {bs : List Nat}
    (h : ∀ b ∈ bs, b < m) : ∀ b ∈ changeBlock f k bs, b < m := by
  induction bs generalizing k with
  | nil => cases k <;> exact h
  | cons b bs ih =>
    obtain ⟨hb, hbs⟩ := List.forall_mem_cons.1 h
    cases k with
    | zero => exact List.forall_mem_cons.2 ⟨hf b hb, hbs⟩
    | succ k => exact List.forall_mem_cons.2 ⟨hb, ih k hbs⟩

/-- Masking the last block is a change of that block. -/
theorem maskLast_eq_changeBlock (len : Nat) (bs : List Nat) :
    maskLast len bs = changeBlock (· &&& lastBlockMask len) (bs.length - 1) bs := by
  induction bs with
  | nil => rfl
  | cons b bs ih =>
    cases bs with
    | nil => rfl
    | cons c cs => simpa [maskLast, changeBlock] using ih

/-- The bits after a change of one block. -/
theorem bitOfBlocks_changeBlock (f : Nat → Nat) {k : Nat} {bs : List Nat} (hk : k < bs.length) (j : Nat) :
    bitOfBlocks (changeBlock f k bs) j =
      if j / Config.blockBits = k then (f (bs.getD k 0)).testBit (j % Config.blockBits) else bitOfBlocks bs j := by
  unfold bitOfBlocks
  rw [changeBlock_getD f hk]
  split
  · next h => rw [h]
  · rfl

theorem bitOfBlocks_eq_false {bs : List Nat} {j : Nat} (h : bs.length ≤ j / Config.blockBits) :
    bitOfBlocks bs j = false := by
  rw [bitOfBlocks, List.getD_eq_default _ _ h, Nat.zero_testBit]

/-- The masked block buffer of a register has the bits below the register's length and no others (R12). -/
theorem bitOfBlocks_maskLast (r : Reg) {bs : List Nat} (hl : bs.length = blockCount (regLen r)) (j : Nat) :
    bitOfBlocks (maskLast (regLen r) bs) j = (bitOfBlocks bs j && decide (j < regLen r)) := by
  have hsum := blockBits_mul_add_lastBlockBits r
  have hpos := blockCount_regLen_pos r
  have hlast := lastBlockBits_lt (regLen r)
  have hj := Nat.div_add_mod j Config.blockBits
  rw [maskLast_eq_changeBlock, bitOfBlocks_changeBlock _ (by omega), hl]
  split
  · next h =>
    rw [Nat.testBit_and, lastBlockMask, Nat.testBit_two_pow_sub_one, bitOfBlocks, h]
    rw [h] at hj
    congr 1
    exact decide_eq_decide.2 (by omega)
  · next h =>
    obtain hlt | hge := Nat.lt_or_ge (j / Config.blockBits) (blockCount (regLen r))
    · have hlow : j < regLen r := by simp only [Config.blockBits] at *; omega
      simp [hlow]
    · simp [bitOfBlocks_eq_false (hl.trans_le hge)]

/-- What a register holds after one block is changed and the last block masked: the bits of that block come from the
change, the other bits stay, and the length bounds them all. -/
theorem State.testBit_changed_blocks (s : State) (r : Reg) {f : Nat → Nat}
    (hf : ∀ b, b < 2 ^ Config.blockBits → f b < 2 ^ Config.blockBits) {k : Nat} (hk : k < blockCount (regLen r))
    (j : Nat) :
    (ofBlocks (maskLast (regLen r) (changeBlock f k (s.blocks r))) % 2 ^ regLen r).testBit j =
      ((if j / Config.blockBits = k then (f ((s.blocks r).getD k 0)).testBit (j % Config.blockBits)
        else (s.x r).testBit j) && decide (j < regLen r)) := by
  have hmask : ∀ b, b < 2 ^ Config.blockBits → b &&& lastBlockMask (regLen r) < 2 ^ Config.blockBits :=
    fun b hb => Nat.and_le_left.trans_lt hb
  have hlt : ∀ b ∈ maskLast (regLen r) (changeBlock f k (s.blocks r)), b < 2 ^ Config.blockBits := by
    rw [maskLast_eq_changeBlock]
    exact changeBlock_lt hmask _ (changeBlock_lt hf k (s.blocks_lt r))
  rw [Nat.testBit_mod_two_pow, testBit_ofBlocks hlt, bitOfBlocks_maskLast r (by simp),
    bitOfBlocks_changeBlock f (by simpa using hk), s.bitOfBlocks_blocks]
  exact Bool.and_left_comm _ _ _ |>.trans (by rw [Bool.and_self])

end Sys2Proof.Machine
end

section
/-! SUPPORT. The carry chain of ADD and the borrow chain of SUB compute the sum and the difference
(spec/41_fixedwidth_integer.md R81, R82), and the big-endian bytes of a value (spec/20_memory.md R41). -/

namespace Sys2Proof.Machine

/-! ## The chains -/

/-- Block after block with the carry handed on, the addition chain is addition: the blocks hold the low part of the sum
and the carry-out is the rest. -/
theorem addChain_splitBlocks (n w a b c : Nat) (ha : a < 2 ^ (Config.blockBits * n + w))
    (hb : b < 2 ^ (Config.blockBits * n + w)) :
    let ws := List.replicate n Config.blockBits ++ [w]
    let sum := addChain ws (splitBlocks ws a) (splitBlocks ws b) c
    ofBlocks sum.1 = (a + b + c) % 2 ^ (Config.blockBits * n + w) ∧
      sum.2 = (a + b + c) / 2 ^ (Config.blockBits * n + w) := by
  induction n generalizing a b c with
  | zero =>
    simp only [mul_zero, zero_add] at ha hb
    simp [splitBlocks, addChain, ofBlocks, Nat.mod_eq_of_lt ha, Nat.mod_eq_of_lt hb]
  | succ n ih =>
    rw [two_pow_widths_succ] at ha hb ⊢
    obtain ⟨hval, hcarry⟩ := ih (a / 2 ^ Config.blockBits) (b / 2 ^ Config.blockBits)
      ((a % 2 ^ Config.blockBits + b % 2 ^ Config.blockBits + c) / 2 ^ Config.blockBits)
      (Nat.div_lt_of_lt_mul ha) (Nat.div_lt_of_lt_mul hb)
    have hlow : (a % 2 ^ Config.blockBits + b % 2 ^ Config.blockBits + c) % 2 ^ Config.blockBits =
        (a + b + c) % 2 ^ Config.blockBits := by simp only [Config.blockBits]; omega
    have hhigh : a / 2 ^ Config.blockBits + b / 2 ^ Config.blockBits +
        (a % 2 ^ Config.blockBits + b % 2 ^ Config.blockBits + c) / 2 ^ Config.blockBits =
        (a + b + c) / 2 ^ Config.blockBits := by simp only [Config.blockBits]; omega
    simp only [List.replicate_succ, List.cons_append, splitBlocks, addChain, ofBlocks, hval, hcarry, hlow, hhigh]
    exact ⟨(Nat.mod_mul ..).symm, Nat.div_div_eq_div_mul ..⟩

/-- The marker bit above a block is added to it. -/
theorem or_two_pow_of_lt {a w : Nat} (h : a < 2 ^ w) : a ||| 2 ^ w = 2 ^ w + a := by
  have := Nat.two_pow_add_eq_or_of_lt h 1
  rw [mul_one] at this
  rw [this, Nat.or_comm]

/-- Block after block with the borrow handed on, the subtraction chain is subtraction modulo `2^W`. -/
theorem ofBlocks_subChain_splitBlocks (n w a b br : Nat) (ha : a < 2 ^ (Config.blockBits * n + w))
    (hb : b < 2 ^ (Config.blockBits * n + w)) (hbr : br ≤ 1) :
    let ws := List.replicate n Config.blockBits ++ [w]
    ofBlocks (subChain ws (splitBlocks ws a) (splitBlocks ws b) br) =
      (2 ^ (Config.blockBits * n + w) + a - b - br) % 2 ^ (Config.blockBits * n + w) := by
  induction n generalizing a b br with
  | zero =>
    simp only [mul_zero, zero_add] at ha hb ⊢
    simp [splitBlocks, subChain, ofBlocks, Nat.mod_eq_of_lt ha, Nat.mod_eq_of_lt hb, or_two_pow_of_lt ha]
  | succ n ih =>
    rw [two_pow_widths_succ] at ha hb ⊢
    simp only [List.replicate_succ, List.cons_append, splitBlocks, subChain, ofBlocks]
    rw [or_two_pow_of_lt (Nat.mod_lt _ (Nat.two_pow_pos _)),
      ih _ _ _ (Nat.div_lt_of_lt_mul ha) (Nat.div_lt_of_lt_mul hb) (Nat.sub_le _ _), Nat.mod_mul]
    generalize hM : 2 ^ (Config.blockBits * n + w) = M at ha hb ⊢
    simp only [Config.blockBits, Nat.testBit_eq_decide_div_mod_eq, Bool.toNat, Bool.cond_decide] at ha hb ⊢
    have hlow : (2 ^ 30 + a % 2 ^ 30 - b % 2 ^ 30 - br) % 2 ^ 30 = (2 ^ 30 * M + a - b - br) % 2 ^ 30 := by omega
    have hhigh : M + a / 2 ^ 30 - b / 2 ^ 30 -
        (1 - if (2 ^ 30 + a % 2 ^ 30 - b % 2 ^ 30 - br) / 2 ^ 30 % 2 = 1 then 1 else 0) =
        (2 ^ 30 * M + a - b - br) / 2 ^ 30 := by split <;> omega
    rw [hlow, hhigh]

/-- What ADD puts into a register and into CF (R81). -/
theorem State.addChain_blocks (s : State) {rd ra : Reg} (h : regLen rd = regLen ra) :
    let sum := addChain (blockWidths (regLen rd)) (s.blocks rd) (s.blocks ra) 0
    ofBlocks sum.1 = (s.x rd + s.x ra) % 2 ^ regLen rd ∧ sum.2 = (s.x rd + s.x ra) / 2 ^ regLen rd := by
  have hW := blockBits_mul_add_lastBlockBits rd
  have key := addChain_splitBlocks (blockCount (regLen rd) - 1) (lastBlockBits (regLen rd)) (s.x rd) (s.x ra) 0
  rw [hW] at key
  have := key (s.x_lt rd) (by rw [h]; exact s.x_lt ra)
  rw [State.blocks, State.blocks, ← h]
  exact this

/-- What SUB puts into a register (R82). -/
theorem State.ofBlocks_subChain_blocks (s : State) {rd ra : Reg} (h : regLen rd = regLen ra) :
    ofBlocks (subChain (blockWidths (regLen rd)) (s.blocks rd) (s.blocks ra) 0) =
      (2 ^ regLen rd + s.x rd - s.x ra) % 2 ^ regLen rd := by
  have hW := blockBits_mul_add_lastBlockBits rd
  have key := ofBlocks_subChain_splitBlocks (blockCount (regLen rd) - 1) (lastBlockBits (regLen rd)) (s.x rd) (s.x ra) 0
  rw [hW] at key
  have := key (s.x_lt rd) (by rw [h]; exact s.x_lt ra) (Nat.zero_le 1)
  rw [State.blocks, State.blocks, ← h]
  exact this

/-! ## Big-endian bytes -/

theorem beNat_append_singleton (bytes : List Byte) (b : Byte) : beNat (bytes ++ [b]) = beNat bytes * 256 + b.toNat := by
  simp [beNat]

theorem beNat_lt (bytes : List Byte) : beNat bytes < 256 ^ bytes.length := by
  induction bytes using List.reverseRecOn with
  | nil => decide
  | append_singleton bytes b ih =>
    rw [beNat_append_singleton, List.length_append, List.length_singleton, pow_succ]
    have := b.isLt
    omega

/-- The base-256 digits of the value are the bytes, the most significant first (R41). -/
theorem beNat_digit (bytes : List Byte) {j : Nat} (hj : j < bytes.length) :
    beNat bytes / 256 ^ (bytes.length - 1 - j) % 256 = bytes[j].toNat := by
  induction bytes using List.reverseRecOn with
  | nil => simp at hj
  | append_singleton bytes b ih =>
    have hb := b.isLt
    rw [List.length_append, List.length_singleton] at hj
    rw [beNat_append_singleton, List.length_append, List.length_singleton, Nat.add_sub_cancel]
    obtain hlt | rfl := Nat.lt_succ_iff_lt_or_eq.1 hj
    · rw [show bytes.length - j = bytes.length - 1 - j + 1 by omega, pow_succ', ← Nat.div_div_eq_div_mul,
        show (beNat bytes * 256 + b.toNat) / 256 = beNat bytes by omega, List.getElem_append_left hlt]
      exact ih hlt
    · rw [Nat.sub_self, pow_zero, Nat.div_one, List.getElem_append_right le_rfl]
      simp only [Nat.sub_self, List.getElem_cons_zero]
      omega

/-- Each byte of a value is its base-256 digit, the most significant first (R41). -/
theorem bytesBe_getElem (v n : Nat) {j : Nat} (hj : j < (bytesBe v n).length) :
    (bytesBe v n)[j] = BitVec.ofNat 8 (v / 256 ^ (n - 1 - j)) := by
  induction n generalizing j with
  | zero => simp [bytesBe] at hj
  | succ n ih =>
    cases j with
    | zero => simp [bytesBe]
    | succ j =>
      simp only [bytesBe, List.getElem_cons_succ]
      rw [ih, show n + 1 - 1 - (j + 1) = n - 1 - j by omega]

theorem pow_regLen_div_eight (r : Reg) : 256 ^ (regLen r / 8) = 2 ^ regLen r := by
  rw [show (256 : Nat) = 2 ^ 8 from rfl, ← pow_mul]
  obtain h | h := regLen_cases r <;> rw [h]

end Sys2Proof.Machine
end

section
/-! PROOFS. The statements of spec/41_fixedwidth_integer.md about ADD, SUB, the shifts, the single bits, MULHALF, LDB and
STB. -/

namespace Sys2Proof.Machine

/-! ## A guarded command that writes registers -/

/-- A guarded command none of whose fault conditions holds leaves its effect. -/
theorem guarded_completes {checks : List (Bool × Cause)} (h : firstCause checks = none) {i : Instr} {s effect : State}
    {P : State → Prop} (hP : P effect) : ∃ t, guarded checks i s effect = .next t ∧ P t :=
  ⟨effect, guarded_of_none h i s effect, hP⟩

/-- A guarded command whose effect is one register's value leaves that value, the flags and everything else. -/
theorem guarded_setX_completes {checks : List (Bool × Cause)} (h : firstCause checks = none) {i : Instr} {s : State}
    {rd : Reg} {v : Nat} {P : Nat → Prop} (hP : P (v % 2 ^ regLen rd)) :
    ∃ t, guarded checks i s (s.setX rd v) = .next t ∧ P (t.x rd) ∧ t.flags = s.flags ∧ OnlyRegs s t [rd] :=
  guarded_completes h ⟨(s.x_setX_self rd v).symm ▸ hP, s.setX_flags rd v, onlyRegs_setX s rd v⟩

/-- A guarded command whose first fault condition holds takes that fault (R206). -/
theorem guarded_first {b : Bool} (h : b = true) {c : Cause} {rest : List (Bool × Cause)} {i : Instr}
    {s effect : State} :
    guarded ((b, c) :: rest) i s effect = .next (takeFault c (encode i) s) :=
  guarded_of_some (by rw [h, firstCause_cons_true]) i s effect

/-- A guarded command whose second fault condition is the first to hold takes that fault (R206). -/
theorem guarded_second {b b' : Bool} (h : b = false) (h' : b' = true) {c c' : Cause} {rest : List (Bool × Cause)}
    {i : Instr} {s effect : State} :
    guarded ((b, c) :: (b', c') :: rest) i s effect = .next (takeFault c' (encode i) s) :=
  guarded_of_some (by rw [h, firstCause_cons_false, h', firstCause_cons_true]) i s effect

theorem firstCause_one_none {b : Bool} (h : b = false) (c : Cause) : firstCause [(b, c)] = none := by
  rw [h, firstCause_cons_false, firstCause]

theorem firstCause_two_none {b b' : Bool} (h : b = false) (h' : b' = false) (c c' : Cause) :
    firstCause [(b, c), (b', c')] = none := by
  rw [h, firstCause_cons_false, firstCause_one_none h']

/-! ## ADD and SUB -/

/-- The carry-out is set exactly when the sum reaches the modulus. -/
theorem div_bne_zero {m : Nat} (hm : 0 < m) (v : Nat) : (v / m != 0) = decide (m ≤ v) := by
  rw [Bool.eq_iff_iff, bne_iff_ne, decide_eq_true_iff, Nat.div_ne_zero_iff]
  exact and_iff_right hm.ne'

/-- Settles O20: the block chain is the sum, its carry-out whether the sum reached `2^L`. -/
theorem addIsAdditionWithCarry : Obligations.AddIsAdditionWithCarry := by
  intro rd ra s
  refine ⟨fun hlen => guarded_first (by simpa using hlen),
    fun hlen hact => guarded_second (by simpa using hlen) hact,
    fun hlen hact => ?_⟩
  obtain ⟨hval, hcarry⟩ := s.addChain_blocks hlen
  refine guarded_completes (firstCause_two_none (by simpa using hlen) hact _ _) ⟨?_, ?_, onlyRegs_setX_setCf s rd _ _⟩
  · rw [State.setCf_x, State.x_setX_self, hval, Nat.mod_mod]
  · rw [State.setCf_flags, State.setX_flags, hcarry, div_bne_zero (Nat.two_pow_pos _)]

/-- The difference modulo `2^L`, with `2^L` added first so that the subtraction does not end at 0. -/
theorem int_sub_emod_two_pow {a b L : Nat} (hb : b < 2 ^ L) :
    ((2 ^ L + a - b : Nat) % 2 ^ L : Int) = ((a : Int) - b) % 2 ^ L := by
  rw [Nat.cast_sub (by omega)]
  push_cast
  rw [add_sub_assoc, Int.add_emod_left]

/-- Settles O21: the marker-bit chain is the difference modulo `2^L`. -/
theorem subIsSubtractionModulo : Obligations.SubIsSubtractionModulo := by
  intro rd ra s
  refine ⟨fun hlen => guarded_first (by simpa using hlen),
    fun hlen hact => guarded_second (by simpa using hlen) hact,
    fun hlen hact => guarded_setX_completes (firstCause_two_none (by simpa using hlen) hact _ _)
      (P := fun v => (v : Int) = ((s.x rd : Int) - s.x ra) % 2 ^ regLen rd) ?_⟩
  have hra : s.x ra < 2 ^ regLen rd := hlen ▸ s.x_lt ra
  rw [s.ofBlocks_subChain_blocks hlen, Nat.mod_mod]
  exact_mod_cast int_sub_emod_two_pow (a := s.x rd) hra

/-! ## Shifts -/

theorem shiftLeft_eq (len v n : Nat) : shiftLeft len v n = v * 2 ^ n % 2 ^ len := by
  unfold shiftLeft
  split
  · next h => exact (Nat.mod_eq_zero_of_dvd (Dvd.dvd.mul_left (pow_dvd_pow 2 h) v)).symm
  · rw [Nat.shiftLeft_eq]

theorem shiftRight_eq {len v : Nat} (hv : v < 2 ^ len) (n : Nat) : shiftRight len v n = v / 2 ^ n := by
  unfold shiftRight
  split
  · next h => exact (Nat.div_eq_of_lt (hv.trans_le (Nat.pow_le_pow_right two_pos h))).symm
  · exact Nat.shiftRight_eq_div_pow v n

/-- Settles O23: below the length the shift is the product or quotient, and from the length on both are 0. -/
theorem shiftsMultiplyAndDivide : Obligations.ShiftsMultiplyAndDivide := by
  refine fun rd n s => ⟨fun hact => ⟨guarded_first hact, guarded_first hact⟩, fun hact =>
    ⟨guarded_setX_completes (firstCause_one_none hact _) (P := (· = s.x rd * 2 ^ n.toNat % 2 ^ regLen rd)) ?_,
      guarded_setX_completes (firstCause_one_none hact _) (P := (· = s.x rd / 2 ^ n.toNat)) ?_⟩⟩
  · rw [shiftLeft_eq, Nat.mod_mod]
  · rw [shiftRight_eq (s.x_lt rd)]
    exact Nat.mod_eq_of_lt ((Nat.div_le_self _ _).trans_lt (s.x_lt rd))

/-! ## Single bits -/

/-- Settles O24: the block buffer shows the bits of the value. -/
theorem getbitReadsTheBit : Obligations.GetbitReadsTheBit := by
  refine fun rd pos s =>
    ⟨fun hout => guarded_first ((outsideBlocks_iff rd _).2 hout),
    fun hin => guarded_completes (firstCause_one_none ((outsideBlocks_eq_false_iff rd _).2 hin) _)
      ⟨?_, onlyRegs_setTf s _⟩⟩
  rw [State.setTf_flags, s.bitOfBlocks_blocks]

/-- A bit of a register lies below its length. -/
theorem State.testBit_x_and_lt (s : State) (r : Reg) (j : Nat) :
    ((s.x r).testBit j && decide (j < regLen r)) = (s.x r).testBit j := by
  rw [Bool.and_comm, ← Nat.testBit_mod_two_pow, Nat.mod_eq_of_lt (s.x_lt r)]

theorem div_blockBits_lt_blockCount {rd : Reg} {pos : Nat} (h : outsideBlocks (regLen rd) pos = false) :
    pos / Config.blockBits < blockCount (regLen rd) :=
  Nat.div_lt_of_lt_mul (by simpa [outsideBlocks] using h)

/-- Two positions are the same when their blocks and their places in the block are. -/
theorem eq_iff_mod_blockBits {j pos : Nat} (h : j / Config.blockBits = pos / Config.blockBits) :
    pos % Config.blockBits = j % Config.blockBits ↔ j = pos := by
  have hj := Nat.div_add_mod j Config.blockBits
  have hpos := Nat.div_add_mod pos Config.blockBits
  rw [h] at hj
  omega

theorem testBit_clearBitOf (k b i : Nat) : (clearBitOf k b).testBit i = (b.testBit i && decide (k ≠ i)) := by
  rw [clearBitOf, Nat.testBit_xor, Nat.testBit_and, Nat.testBit_two_pow]
  by_cases h : k = i <;> simp [h]

theorem clearBitOf_lt {b m : Nat} (k : Nat) (hb : b < 2 ^ m) : clearBitOf k b < 2 ^ m :=
  Nat.xor_lt_two_pow hb (Nat.and_le_left.trans_lt hb)

/-- The value SETBIT writes (R87). -/
theorem State.testBit_setBitBlocks (s : State) (rd : Reg) {pos : Nat} (h : outsideBlocks (regLen rd) pos = false)
    (j : Nat) :
    (ofBlocks (setBitBlocks (regLen rd) (s.blocks rd) pos) % 2 ^ regLen rd).testBit j =
      ((s.x rd).testBit j || decide (j = pos ∧ pos < regLen rd)) := by
  have hlt : ∀ b, b < 2 ^ Config.blockBits → b ||| 2 ^ (pos % Config.blockBits) < 2 ^ Config.blockBits := fun b hb =>
    Nat.or_lt_two_pow hb (Nat.pow_lt_pow_right one_lt_two (Nat.mod_lt _ (by decide)))
  rw [setBitBlocks, s.testBit_changed_blocks rd hlt (div_blockBits_lt_blockCount h)]
  have hbit := s.bitOfBlocks_blocks rd j
  have hx := s.testBit_x_and_lt rd j
  split
  · next hj =>
    rw [bitOfBlocks, hj] at hbit
    rw [Nat.testBit_or, Nat.testBit_two_pow, hbit, Bool.and_or_distrib_right, hx]
    congr 1
    rw [← Bool.decide_and, decide_eq_decide, eq_iff_mod_blockBits hj]
    exact and_congr_right fun e => by rw [e]
  · next hj =>
    have hne : j ≠ pos := fun e => hj (by rw [e])
    simp [hx, hne]

/-- The value CLRBIT writes (R88). -/
theorem State.testBit_clearBitBlocks (s : State) (rd : Reg) {pos : Nat} (h : outsideBlocks (regLen rd) pos = false)
    (j : Nat) :
    (ofBlocks (clearBitBlocks (regLen rd) (s.blocks rd) pos) % 2 ^ regLen rd).testBit j =
      ((s.x rd).testBit j && decide (j ≠ pos)) := by
  rw [clearBitBlocks, s.testBit_changed_blocks rd (fun _ => clearBitOf_lt _) (div_blockBits_lt_blockCount h)]
  have hbit := s.bitOfBlocks_blocks rd j
  have hx := s.testBit_x_and_lt rd j
  split
  · next hj =>
    rw [bitOfBlocks, hj] at hbit
    rw [testBit_clearBitOf, hbit, Bool.and_right_comm, hx]
    congr 1
    exact decide_eq_decide.2 (eq_iff_mod_blockBits hj).not
  · next hj =>
    have hne : j ≠ pos := fun e => hj (by rw [e])
    simp [hx, hne]

/-- Settles O25: the change of one block bit is the change of one bit of the value, and the mask drops it from the length
on. -/
theorem setbitAndClrbitChangeOneBit : Obligations.SetbitAndClrbitChangeOneBit := by
  refine fun rd pos s => ⟨fun hout => ?_, fun hin hact => ?_, fun hin hact => ?_⟩
  · have hrange := (outsideBlocks_iff rd _).2 hout
    exact ⟨guarded_first hrange, guarded_first hrange⟩
  · have hrange := (outsideBlocks_eq_false_iff rd _).2 hin
    exact ⟨guarded_second hrange hact, guarded_second hrange hact⟩
  · have hrange := (outsideBlocks_eq_false_iff rd _).2 hin
    have hnone := firstCause_two_none hrange hact .range .tabactive
    exact ⟨guarded_setX_completes hnone
        (P := fun v => ∀ j, v.testBit j = ((s.x rd).testBit j || decide (j = pos.toNat ∧ pos.toNat < regLen rd)))
        (s.testBit_setBitBlocks rd hrange),
      guarded_setX_completes hnone (P := fun v => ∀ j, v.testBit j = ((s.x rd).testBit j && decide (j ≠ pos.toNat)))
        (s.testBit_clearBitBlocks rd hrange)⟩

/-! ## MULHALF -/

theorem two_pow_half_mul_self (r : Reg) : 2 ^ (regLen r / 2) * 2 ^ (regLen r / 2) = 2 ^ regLen r := by
  rw [← pow_add]
  obtain h | h := regLen_cases r <;> rw [h]

theorem overHalf_or_iff (len v v' : Nat) :
    (overHalf len v || overHalf len v') = true ↔ 2 ^ (len / 2) ≤ v ∨ 2 ^ (len / 2) ≤ v' := by
  rw [Bool.or_eq_true, overHalf, overHalf, decide_eq_true_iff, decide_eq_true_iff]

theorem overHalf_or_eq_false {len v v' : Nat} (h : v < 2 ^ (len / 2)) (h' : v' < 2 ^ (len / 2)) :
    (overHalf len v || overHalf len v') = false := by
  rw [Bool.eq_false_iff, Ne, overHalf_or_iff]
  exact not_or.2 ⟨h.not_ge, h'.not_ge⟩

/-- Settles O27: the product of two values below `2^(L/2)` is below `2^L`, so nothing of it is lost. -/
theorem mulhalfWritesTheProduct : Obligations.MulhalfWritesTheProduct := by
  refine fun rd ra rb s =>
    ⟨fun hover => guarded_first ((overHalf_or_iff _ _ _).2 hover),
    fun ha hb hact => guarded_second (overHalf_or_eq_false ha hb) hact,
    fun ha hb hact => guarded_setX_completes (firstCause_two_none (overHalf_or_eq_false ha hb) hact _ _)
      (P := (· = s.x ra * s.x rb)) (Nat.mod_eq_of_lt ?_)⟩
  calc s.x ra * s.x rb < 2 ^ (regLen rd / 2) * 2 ^ (regLen rd / 2) := Nat.mul_lt_mul'' ha hb
    _ = 2 ^ regLen rd := two_pow_half_mul_self rd

/-! ## LDB and STB -/

theorem pastBuf_iff (a n : Nat) : pastBuf a n = true ↔ a + n > Config.bufSize := decide_eq_true_iff

theorem pastBuf_eq_false_iff (a n : Nat) : pastBuf a n = false ↔ a + n ≤ Config.bufSize := by
  rw [pastBuf, decide_eq_false_iff_not, gt_iff_lt, not_lt]

/-- Each base-256 digit of the bytes read from BUF is the byte at its address (R41). -/
theorem State.beNat_memRead_digit (s : State) (a : Nat) {n j : Nat} (hj : j < n) :
    beNat (s.memRead a n) / 256 ^ (n - 1 - j) % 256 = (s.byte (a + j)).toNat := by
  have hlen := s.memRead_length a n
  rw [← s.memRead_getElem a n j (by omega), ← beNat_digit, hlen]

/-- Settles O29: `L/8` bytes make a value below `2^L`, whose base-256 digits they are. -/
theorem ldbLoadsBigEndianBytes : Obligations.LdbLoadsBigEndianBytes := by
  refine fun rd a s =>
    ⟨fun hpast => guarded_first ((pastBuf_iff _ _).2 hpast),
    fun hfits hact => guarded_second ((pastBuf_eq_false_iff _ _).2 hfits) hact,
    fun hfits hact => guarded_setX_completes (firstCause_two_none ((pastBuf_eq_false_iff _ _).2 hfits) hact _ _)
      (P := fun v => ∀ j, j < regLen rd / 8 →
        v / 256 ^ (regLen rd / 8 - 1 - j) % 256 = (s.byte (a.toNat + j)).toNat) ?_⟩
  have hlt : beNat (s.memRead a.toNat (regLen rd / 8)) < 2 ^ regLen rd := by
    have := beNat_lt (s.memRead a.toNat (regLen rd / 8))
    rwa [State.memRead_length, pow_regLen_div_eight] at this
  rw [Nat.mod_eq_of_lt hlt]
  exact fun j hj => s.beNat_memRead_digit a.toNat hj

/-- A store leaves everything but BUF as it was. -/
theorem memWrite_keeps_all_but_buf (s : State) (a : Nat) (bytes : List Byte) :
    (s.memWrite a bytes).flags = s.flags ∧ KeepsRegs s (s.memWrite a bytes) [] ∧ KeepsTabs s (s.memWrite a bytes) [] ∧
      KeepsDraws s (s.memWrite a bytes) ∧ KeepsControl s (s.memWrite a bytes) := by
  simp [KeepsRegs, KeepsTabs, KeepsDraws, KeepsControl]

/-- Settles O30: the bytes stored are the base-256 digits of the value, and no other byte is stored. -/
theorem stbStoresBigEndianBytes : Obligations.StbStoresBigEndianBytes := by
  refine fun rd a s =>
    ⟨fun hpast => guarded_first ((pastBuf_iff _ _).2 hpast),
    fun hfits => guarded_completes (firstCause_one_none ((pastBuf_eq_false_iff _ _).2 hfits) _)
      ⟨fun j hj => ?_, ?_, memWrite_keeps_all_but_buf s _ _⟩⟩
  · rw [State.byte_memWrite, dif_pos (by simpa using hj), bytesBe_getElem, BitVec.toNat_ofNat, Nat.add_sub_cancel_left]
  · have := keepsBytes_memWrite s a.toNat (bytesBe (s.x rd) (regLen rd / 8))
    rwa [bytesBe_length] at this

end Sys2Proof.Machine
end

section
/-! PROOFS. The statements of spec/42_modular_engine.md about the table life cycle: TABINIT and TABSHUT (R120, R121). -/

namespace Sys2Proof.Machine

/-! ## Guarded commands with three fault conditions -/

/-- A fault condition that does not hold plays no part in what a guarded command does (R206). -/
theorem guarded_skip {b : Bool} (h : b = false) {c : Cause} {rest : List (Bool × Cause)} {i : Instr}
    {s effect : State} : guarded ((b, c) :: rest) i s effect = guarded rest i s effect := by
  rw [h, guarded, firstCause_cons_false, guarded]

/-- A guarded command whose third fault condition is the first to hold takes that fault (R206). -/
theorem guarded_third {b b' b'' : Bool} (h : b = false) (h' : b' = false) (h'' : b'' = true) {c c' c'' : Cause}
    {rest : List (Bool × Cause)} {i : Instr} {s effect : State} :
    guarded ((b, c) :: (b', c') :: (b'', c'') :: rest) i s effect = .next (takeFault c'' (encode i) s) :=
  (guarded_skip h).trans (guarded_second h' h'')

theorem firstCause_three_none {b b' b'' : Bool} (h : b = false) (h' : b' = false) (h'' : b'' = false)
    (c c' c'' : Cause) : firstCause [(b, c), (b', c'), (b'', c'')] = none := by
  rw [h, firstCause_cons_false, firstCause_two_none h' h'']

/-! ## Registers that can have a table -/

theorem isSingle_iff (r : Reg) : isSingle r = true ↔ r.toNat < 24 := decide_eq_true_iff

/-- The WIDTH condition of a command on tables, as it stands in its list of checks. -/
theorem not_isSingle_iff (r : Reg) : (!isSingle r) = true ↔ 24 ≤ r.toNat := by
  rw [Bool.not_eq_true', ← Bool.not_eq_true, isSingle_iff, not_lt]

theorem not_isSingle_eq_false {r : Reg} (h : r.toNat < 24) : (!isSingle r) = false := by
  rw [(isSingle_iff r).2 h, Bool.not_true]

/-- Only a single-width register has an active table (R17). -/
theorem State.toNat_lt_of_tabActive {s : State} {r : Reg} (h : s.tabActive r = true) : r.toNat < 24 := by
  by_contra hr
  rw [s.tabActive_double (decide_eq_false hr)] at h
  cases h

/-! ## A table replaced -/

/-- A command that replaces one register's table leaves everything else. -/
theorem setTab_keeps_all_but_tab (s : State) (r : Reg) (t : Table) :
    (s.setTab r t).flags = s.flags ∧ KeepsRegs s (s.setTab r t) [] ∧ KeepsTabs s (s.setTab r t) [r] ∧
      KeepsBytes s (s.setTab r t) 0 0 ∧ KeepsDraws s (s.setTab r t) ∧ KeepsControl s (s.setTab r t) := by
  have htabs : KeepsTabs s (s.setTab r t) [r] := fun q hq => by
    rw [s.tab_setTab, if_neg fun h => hq (List.mem_singleton.2 h.1)]
  simp [htabs, KeepsRegs, KeepsBytes, KeepsDraws, KeepsControl]

/-- The table that is opened is the table of the register's value (R18). -/
theorem State.tab_openTab_self (s : State) {r : Reg} (h : r.toNat < 24) : (s.openTab r).tab r = tableOf (s.x r) := by
  rw [s.tab_openTab, if_pos ⟨rfl, (isSingle_iff r).2 h⟩]

/-- What a fresh table holds: the index of the top bit of its modulus, and the powers of R120 reduced by it. -/
theorem tableOf_spec {m : Nat} (hm : m ≠ 0) (hl : m < 2 ^ 1024) :
    2 ^ (tableOf m).msb ≤ m ∧ m < 2 ^ ((tableOf m).msb + 1) ∧ (tableOf m).entries.length = (tableOf m).msb + 1 ∧
      ∀ j, j ≤ (tableOf m).msb → (tableOf m).entry j = 2 ^ ((tableOf m).msb + j) % m :=
  ⟨two_pow_msbOf_le hm, bitlen_pos hm ▸ lt_two_pow_bitlen m, tableOf_entries_length m,
    fun _ hj => tableOf_entry (Nat.pos_of_ne_zero hm) hl hj⟩

/-! ## TABINIT -/

/-- Settles O34: the table that TABINIT opens is the one of the register's value. -/
theorem tabinitBuildsTheTable : Obligations.TabinitBuildsTheTable := by
  refine fun rd s =>
    ⟨fun hwide => guarded_first ((not_isSingle_iff rd).2 hwide),
    fun hrd hact => guarded_second (not_isSingle_eq_false hrd) hact,
    fun hrd hact hzero => guarded_third (not_isSingle_eq_false hrd) hact (beq_iff_eq.2 hzero),
    fun hrd hact hx =>
      guarded_completes (firstCause_three_none (not_isSingle_eq_false hrd) hact (beq_eq_false_iff_ne.2 hx) _ _ _) ?_⟩
  have hlt : s.x rd < 2 ^ 1024 := regLen_of_single ((isSingle_iff rd).2 hrd) ▸ s.x_lt rd
  obtain ⟨hlow, hhigh, hlength, hentry⟩ := tableOf_spec hx hlt
  rw [State.tabActive, s.tab_openTab_self hrd]
  exact ⟨tableOf_active _, hlow, hhigh, hlength, hentry, setTab_keeps_all_but_tab s rd _⟩

/-! ## TABSHUT -/

/-- The table of a key register while the machine holds the keys: KEYFIN alone closes it (R121). -/
theorem keyTableHeld_iff (rd : Reg) (s : State) :
    ((rd == regKN || rd == regKP || rd == regKQ) && s.pstate == .keysGenerated) = true ↔
      (rd = 16 ∨ rd = 17 ∨ rd = 18) ∧ s.pstate = .keysGenerated := by
  simp [regKN, regKP, regKQ, or_assoc]

theorem keyTableHeld_eq_false {rd : Reg} {s : State} (h : ¬ ((rd = 16 ∨ rd = 17 ∨ rd = 18) ∧ s.pstate = .keysGenerated)) :
    ((rd == regKN || rd == regKP || rd == regKQ) && s.pstate == .keysGenerated) = false :=
  Bool.eq_false_iff.2 (mt (keyTableHeld_iff rd s).1 h)

/-- The key registers are single-width (R13). -/
theorem keyReg_lt {rd : Reg} (h : rd = 16 ∨ rd = 17 ∨ rd = 18) : rd.toNat < 24 := by
  rcases h with rfl | rfl | rfl <;> decide

/-- Settles O35: TABSHUT clears `active` of the one table, where no fault condition of R121 holds. -/
theorem tabshutClosesTheTable : Obligations.TabshutClosesTheTable := by
  refine fun rd s =>
    ⟨fun hkey hkeys => guarded_first ((keyTableHeld_iff rd s).2 ⟨hkey, hkeys⟩),
    fun hwide => guarded_second (keyTableHeld_eq_false fun h => ?_) ((not_isSingle_iff rd).2 hwide),
    fun hrd hheld hact =>
      guarded_third (keyTableHeld_eq_false hheld) (not_isSingle_eq_false hrd) (by rw [hact, Bool.not_false]),
    fun hheld hact => guarded_completes
      (firstCause_three_none (keyTableHeld_eq_false hheld) (not_isSingle_eq_false (State.toNat_lt_of_tabActive hact))
        (by rw [hact, Bool.not_true]) _ _ _) ⟨?_, setTab_keeps_all_but_tab s rd _⟩⟩
  · exact absurd (keyReg_lt h.1) (not_lt.2 hwide)
  · simp [s.tabActive_closeTab]

end Sys2Proof.Machine
end

section
/-! PROOFS. The statement of spec/44_primality_generation.md about GCD (R157). -/

namespace Sys2Proof.Machine

/-! ## Factors of two -/

/-- Stripping the factors of two from one operand does not change the greatest common divisor with an odd number. -/
theorem gcd_shiftRight_v2_left {u v : Nat} (hu : u ≠ 0) (hv : v % 2 = 1) : Nat.gcd (u >>> v2 u) v = Nat.gcd u v := by
  have hcop : Nat.Coprime (2 ^ v2 u) v := (Nat.coprime_two_left.2 (Nat.odd_iff.2 hv)).pow_left _
  calc Nat.gcd (u >>> v2 u) v = Nat.gcd (2 ^ v2 u * (u >>> v2 u)) v := (hcop.gcd_mul_left_cancel _).symm
    _ = Nat.gcd u v := by rw [Nat.shiftRight_eq_div_pow, Nat.mul_div_cancel' (v2_spec hu).1]

theorem gcd_shiftRight_v2_right {u v : Nat} (hu : u % 2 = 1) (hv : v ≠ 0) : Nat.gcd u (v >>> v2 v) = Nat.gcd u v := by
  rw [Nat.gcd_comm, gcd_shiftRight_v2_left hv hu, Nat.gcd_comm]

/-- Stripping the factors of two from both operands keeps the greatest common divisor when one of them is odd. -/
theorem gcd_shiftRight_v2 {u v : Nat} (hu : u ≠ 0) (hv : v ≠ 0) (hodd : u % 2 = 1 ∨ v % 2 = 1) :
    Nat.gcd (u >>> v2 u) (v >>> v2 v) = Nat.gcd u v := by
  obtain hodd | hodd := hodd
  · rw [gcd_shiftRight_v2_left hu (v2_spec hv).2, gcd_shiftRight_v2_right hodd hv]
  · rw [gcd_shiftRight_v2_right (v2_spec hu).2 hv, gcd_shiftRight_v2_left hu hodd]

/-- The common factors of two are accumulated exactly: after them one of the operands is odd (R157). -/
theorem shiftRight_min_v2_odd {u v : Nat} (hu : u ≠ 0) (hv : v ≠ 0) :
    (u >>> min (v2 u) (v2 v)) % 2 = 1 ∨ (v >>> min (v2 u) (v2 v)) % 2 = 1 := by
  obtain hle | hle := le_total (v2 u) (v2 v)
  · exact .inl (by rw [min_eq_left hle]; exact (v2_spec hu).2)
  · exact .inr (by rw [min_eq_right hle]; exact (v2_spec hv).2)

/-- A common power of two comes out of the greatest common divisor. -/
theorem gcd_shiftRight_shiftLeft {u v n : Nat} (hu : 2 ^ n ∣ u) (hv : 2 ^ n ∣ v) :
    Nat.gcd (u >>> n) (v >>> n) <<< n = Nat.gcd u v := by
  rw [Nat.shiftLeft_eq, Nat.shiftRight_eq_div_pow, Nat.shiftRight_eq_div_pow, ← Nat.gcd_mul_right,
    Nat.div_mul_cancel hu, Nat.div_mul_cancel hv]

/-! ## The binary method -/

theorem steinLoop_of_zero (fuel : Nat) {u v : Nat} (h : u = 0 ∨ v = 0) : steinLoop fuel u v = u + v := by
  cases fuel with
  | zero => rfl
  | succ fuel => rw [steinLoop, if_pos h]

/-- One turn of the loop of R157: the smaller odd part is subtracted from the larger. -/
theorem steinLoop_turn (fuel : Nat) {u v : Nat} (hu : u ≠ 0) (hv : v ≠ 0) :
    steinLoop (fuel + 1) u v =
      if v >>> v2 v ≤ u >>> v2 u then steinLoop fuel (u >>> v2 u - v >>> v2 v) (v >>> v2 v)
      else steinLoop fuel (u >>> v2 u) (v >>> v2 v - u >>> v2 u) := by
  rw [steinLoop, if_neg (not_or.2 ⟨hu, hv⟩)]

/-- The loop of R157 keeps the greatest common divisor while one operand is odd, and the sum of the operands, which
falls in every turn, is fuel enough. -/
theorem steinLoop_eq_gcd {fuel u v : Nat} (hfuel : u + v ≤ fuel) (hodd : u % 2 = 1 ∨ v % 2 = 1) :
    steinLoop fuel u v = Nat.gcd u v := by
  induction fuel generalizing u v with
  | zero => omega
  | succ fuel ih =>
    by_cases hzero : u = 0 ∨ v = 0
    · rw [steinLoop_of_zero _ hzero]
      obtain rfl | rfl := hzero <;> simp
    obtain ⟨hu, hv⟩ := not_or.1 hzero
    have hu_odd := (v2_spec hu).2
    have hv_odd := (v2_spec hv).2
    have hu_le : u >>> v2 u ≤ u := Nat.shiftRight_le u _
    have hv_le : v >>> v2 v ≤ v := Nat.shiftRight_le v _
    rw [steinLoop_turn fuel hu hv, ← gcd_shiftRight_v2 hu hv hodd]
    split
    next hle => rw [ih (by omega) (.inr hv_odd), Nat.gcd_sub_self_left hle]
    next hlt => rw [ih (by omega) (.inl hu_odd), Nat.gcd_sub_self_right (not_le.1 hlt).le]

theorem steinGcd_of_ne_zero {u v : Nat} (hu : u ≠ 0) (hv : v ≠ 0) :
    steinGcd u v = steinLoop (u + v) (u >>> min (v2 u) (v2 v)) (v >>> min (v2 u) (v2 v)) <<< min (v2 u) (v2 v) := by
  rw [steinGcd, if_neg hu, if_neg hv]

/-- The binary method computes the greatest common divisor, the zero cases included (R157). -/
theorem steinGcd_eq_gcd (u v : Nat) : steinGcd u v = Nat.gcd u v := by
  by_cases hu : u = 0
  · rw [steinGcd, if_pos hu, hu, Nat.gcd_zero_left]
  by_cases hv : v = 0
  · rw [steinGcd, if_neg hu, if_pos hv, hv, Nat.gcd_zero_right]
  have hfuel := Nat.add_le_add (Nat.shiftRight_le u (min (v2 u) (v2 v))) (Nat.shiftRight_le v (min (v2 u) (v2 v)))
  rw [steinGcd_of_ne_zero hu hv, steinLoop_eq_gcd hfuel (shiftRight_min_v2_odd hu hv)]
  exact gcd_shiftRight_shiftLeft ((Nat.pow_dvd_pow 2 (min_le_left _ _)).trans (v2_spec hu).1)
    ((Nat.pow_dvd_pow 2 (min_le_right _ _)).trans (v2_spec hv).1)

/-! ## GCD -/

theorem gcd_lt {u v m : Nat} (hu : u < m) (hv : v < m) : Nat.gcd u v < m := by
  obtain rfl | hpos := u.eq_zero_or_pos
  · rwa [Nat.gcd_zero_left]
  · exact (Nat.gcd_le_left v hpos).trans_lt hu

/-- The WIDTH condition of GCD, as it stands in its list of checks. -/
theorem lengthsDiffer_iff (rd ra rb : Reg) :
    (regLen rd != regLen ra || regLen rd != regLen rb) = true ↔ ¬ (regLen rd = regLen ra ∧ regLen ra = regLen rb) := by
  rw [Bool.or_eq_true, bne_iff_ne, bne_iff_ne]
  omega

theorem lengthsDiffer_eq_false {rd ra rb : Reg} (ha : regLen rd = regLen ra) (hb : regLen ra = regLen rb) :
    (regLen rd != regLen ra || regLen rd != regLen rb) = false :=
  Bool.eq_false_iff.2 (mt (lengthsDiffer_iff rd ra rb).1 (not_not.2 ⟨ha, hb⟩))

/-- Settles O47: the greatest common divisor does not exceed its operands, so the register holds all of it. -/
theorem gcdIsTheGreatestCommonDivisor : Obligations.GcdIsTheGreatestCommonDivisor := by
  refine fun rd ra rb s =>
    ⟨fun hlen => guarded_first ((lengthsDiffer_iff rd ra rb).2 hlen),
    fun ha hb hact => guarded_second (lengthsDiffer_eq_false ha hb) hact,
    fun ha hb hact => guarded_setX_completes (firstCause_two_none (lengthsDiffer_eq_false ha hb) hact _ _)
      (P := (· = Nat.gcd (s.x ra) (s.x rb))) ?_⟩
  rw [steinGcd_eq_gcd]
  exact Nat.mod_eq_of_lt (gcd_lt (ha ▸ s.x_lt ra) ((ha.trans hb) ▸ s.x_lt rb))

end Sys2Proof.Machine
end

section
/-! PROOFS. The statement of spec/45_esrabin_protocol.md about KEYFIN (R185). -/

namespace Sys2Proof.Machine

/-- What KEYFIN leaves when it completes (R185). -/
def State.finalizeKeys (s : State) : State :=
  (((s.closeTab regKN).closeTab regKP).closeTab regKQ).setPstate .finalized

theorem exec_keyfin (s : State) :
    exec .keyfin s = guarded [(s.pstate != .keysGenerated, .pstate)] .keyfin s s.finalizeKeys := rfl

/-! ## Closed tables -/

/-- Closing a table opens none. -/
theorem State.tabActive_closeTab_of_inactive {s : State} {r : Reg} (h : s.tabActive r = false) (q : Reg) :
    (s.closeTab q).tabActive r = false := by
  rw [s.tabActive_closeTab, h, Bool.and_false]

theorem State.tabActive_closeTab_self (s : State) (r : Reg) : (s.closeTab r).tabActive r = false := by
  rw [s.tabActive_closeTab, decide_eq_true rfl, Bool.not_true, Bool.false_and]

/-- The tables of KN, KP and KQ are closed: each by its own step, and no later step opens it again. -/
theorem State.finalizeKeys_tabActive (s : State) :
    s.finalizeKeys.tabActive 16 = false ∧ s.finalizeKeys.tabActive 17 = false ∧
      s.finalizeKeys.tabActive 18 = false :=
  ⟨tabActive_closeTab_of_inactive (tabActive_closeTab_of_inactive (s.tabActive_closeTab_self 16) 17) 18,
    tabActive_closeTab_of_inactive (State.tabActive_closeTab_self _ 17) 18,
    State.tabActive_closeTab_self _ 18⟩

/-! ## What is kept -/

/-- Closing one table leaves every other table. -/
theorem State.tab_closeTab_of_ne (s : State) {q r : Reg} (h : r ≠ q) : (s.closeTab q).tab r = s.tab r := by
  rw [s.tab_closeTab, if_neg fun h' => h h'.1]

theorem State.finalizeKeys_keepsTabs (s : State) : KeepsTabs s s.finalizeKeys [16, 17, 18] := fun r hr => by
  simp only [List.mem_cons, List.not_mem_nil, or_false, not_or] at hr
  obtain ⟨h16, h17, h18⟩ := hr
  calc s.finalizeKeys.tab r
    _ = ((s.closeTab 16).closeTab 17).tab r := State.tab_closeTab_of_ne _ h18
    _ = (s.closeTab 16).tab r := State.tab_closeTab_of_ne _ h17
    _ = s.tab r := s.tab_closeTab_of_ne h16

/-- Of the flags KEYFIN writes PSTATE only. -/
theorem State.finalizeKeys_flags (s : State) : s.finalizeKeys.flags = { s.flags with pstate := .finalized } := by
  simp [State.finalizeKeys]

/-- Outside the tables and PSTATE, KEYFIN writes nothing. -/
theorem State.finalizeKeys_keeps (s : State) :
    KeepsRegs s s.finalizeKeys [] ∧ KeepsTabs s s.finalizeKeys [16, 17, 18] ∧ KeepsBytes s s.finalizeKeys 0 0 ∧
      KeepsDraws s s.finalizeKeys ∧ KeepsControl s s.finalizeKeys := by
  refine ⟨?_, s.finalizeKeys_keepsTabs, ?_⟩ <;>
    simp [State.finalizeKeys, KeepsRegs, KeepsBytes, KeepsDraws, KeepsControl]

/-! ## KEYFIN -/

/-- Settles O52: the one fault condition decides between the fault and the closed key tables. -/
theorem keyfinClosesTheKeyTables : Obligations.KeyfinClosesTheKeyTables := by
  intro s
  rw [exec_keyfin]
  refine ⟨fun hother => guarded_first (bne_iff_ne.2 hother),
    fun hkeys => guarded_completes (firstCause_one_none (bne_eq_false_iff_eq.2 hkeys) _) ?_⟩
  obtain ⟨h16, h17, h18⟩ := s.finalizeKeys_tabActive
  exact ⟨h16, h17, h18, s.finalizeKeys_flags, s.finalizeKeys_keeps⟩

end Sys2Proof.Machine
end

section
/-! PROOFS. The statement of spec/60_exceptions.md about the order of the fault causes (R206): the checks of every command
are the conditions of its Faults line, listed by rising code. -/

namespace Sys2Proof.Machine

/-! ## Checks listed by rising code -/

/-- The checks read the fault conditions `F`, one check for each cause, and list them by rising code, every code above
`low`. The two constructors that add a check have the shape of a Faults line with one condition and with several. -/
inductive ListsFaults : Nat → List (Bool × Cause) → (Cause → Prop) → Prop
  | empty {low : Nat} : ListsFaults low [] (fun _ => False)
  | last {low : Nat} {b : Bool} {c₀ : Cause} {P : Prop} (reads : b = true ↔ P) (above : low < c₀.code := by decide) :
      ListsFaults low [(b, c₀)] (fun c => c = c₀ ∧ P)
  | more {low : Nat} {b : Bool} {c₀ : Cause} {P : Prop} {checks : List (Bool × Cause)} {F : Cause → Prop}
      (reads : b = true ↔ P) (rest : ListsFaults c₀.code checks F) (above : low < c₀.code := by decide) :
      ListsFaults low ((b, c₀) :: checks) (fun c => (c = c₀ ∧ P) ∨ F c)

theorem ListsFaults.code_gt {low : Nat} {checks : List (Bool × Cause)} {F : Cause → Prop} (h : ListsFaults low checks F)
    {c : Cause} (hc : F c) : low < c.code := by
  induction h with
  | empty => exact hc.elim
  | last _ above => exact hc.1 ▸ above
  | more _ _ above ih =>
    obtain ⟨rfl, -⟩ | hc := hc
    · exact above
    · exact above.trans (ih hc)

/-- If a condition holds and none with a lower code does, its cause is the first one found. -/
theorem ListsFaults.firstCause_eq_some {low : Nat} {checks : List (Bool × Cause)} {F : Cause → Prop}
    (h : ListsFaults low checks F) {c : Cause} (hc : F c) (hlow : ∀ c', F c' → c.code ≤ c'.code) :
    firstCause checks = some c := by
  induction h with
  | empty => exact hc.elim
  | last reads =>
    obtain ⟨rfl, hP⟩ := hc
    rw [reads.2 hP, firstCause_cons_true]
  | @more _ b c₀ _ _ _ reads rest _ ih =>
    obtain ⟨rfl, hP⟩ | hF := hc
    · rw [reads.2 hP, firstCause_cons_true]
    · have hb : b = false := Bool.eq_false_iff.2 fun hb =>
        absurd (hlow c₀ (.inl ⟨rfl, reads.1 hb⟩)) (rest.code_gt hF).not_ge
      rw [hb, firstCause_cons_false]
      exact ih hF fun c' hc' => hlow c' (.inr hc')

/-- If no condition holds, no cause is found. -/
theorem ListsFaults.firstCause_eq_none {low : Nat} {checks : List (Bool × Cause)} {F : Cause → Prop}
    (h : ListsFaults low checks F) (hF : ∀ c, ¬ F c) : firstCause checks = none := by
  induction h with
  | empty => rfl
  | last reads => exact firstCause_one_none (Bool.eq_false_iff.2 fun hb => hF _ ⟨rfl, reads.1 hb⟩) _
  | more reads _ _ ih =>
    rw [Bool.eq_false_iff.2 fun hb => hF _ (.inl ⟨rfl, reads.1 hb⟩), firstCause_cons_false]
    exact ih fun c hc => hF c (.inr hc)

/-! ## What the checks read -/

section Reads

variable (s : State)

theorem not_tabActive_iff (r : Reg) : (!s.tabActive r) = true ↔ ¬ s.tabActive r = true := by
  rw [Bool.not_eq_true', Bool.not_eq_true]

theorem anyTabActive_iff (r r' r'' : Reg) :
    (s.tabActive r || s.tabActive r' || s.tabActive r'') = true ↔
      s.tabActive r = true ∨ s.tabActive r' = true ∨ s.tabActive r'' = true := by
  rw [Bool.or_eq_true, Bool.or_eq_true, or_assoc]

theorem anyWide_three_iff (r r' r'' : Reg) :
    (!isSingle r || !isSingle r' || !isSingle r'') = true ↔ 24 ≤ r.toNat ∨ 24 ≤ r'.toNat ∨ 24 ≤ r''.toNat := by
  simp only [Bool.or_eq_true, not_isSingle_iff, or_assoc]

theorem anyWide_four_iff (q r r' r'' : Reg) :
    (!isSingle q || !isSingle r || !isSingle r' || !isSingle r'') = true ↔
      24 ≤ q.toNat ∨ 24 ≤ r.toNat ∨ 24 ≤ r'.toNat ∨ 24 ≤ r''.toNat := by
  simp only [Bool.or_eq_true, not_isSingle_iff, or_assoc]

/-- The REDUCE condition of R122. -/
theorem Table.tooLong_iff (t : Table) (v : Nat) : t.tooLong v = true ↔ 0 < v ∧ 2 * t.msb < msbOf v := by
  rw [Table.tooLong, Bool.and_eq_true, decide_eq_true_iff, decide_eq_true_iff]

/-- The PSTATE condition of KEYGEN (R181). -/
theorem notReadyForKeygen_iff (p : PState) :
    (p != .uninitialized && p != .finalized) = true ↔ ¬ (p = .uninitialized ∨ p = .finalized) := by
  rw [Bool.and_eq_true, bne_iff_ne, bne_iff_ne, not_or]

end Reads

/-! ## The fault record -/

/-- FAULT, FCAUSE and FCMD: what fault entry records (R203). -/
def State.faultRecord (s : State) : Bool × Cause × Word := (s.fault, s.fcause, s.fcmd)

section FaultRecord

variable (s : State)

@[simp] theorem State.setX_faultRecord (r : Reg) (v : Nat) : (s.setX r v).faultRecord = s.faultRecord := by
  simp [faultRecord]
@[simp] theorem State.openTab_faultRecord (r : Reg) : (s.openTab r).faultRecord = s.faultRecord := by
  simp [faultRecord]
@[simp] theorem State.closeTab_faultRecord (r : Reg) : (s.closeTab r).faultRecord = s.faultRecord := by
  simp [faultRecord]
@[simp] theorem State.memWrite_faultRecord (a : Nat) (bytes : List Byte) :
    (s.memWrite a bytes).faultRecord = s.faultRecord := rfl
@[simp] theorem State.setCf_faultRecord (c : Bool) : (s.setCf c).faultRecord = s.faultRecord := rfl
@[simp] theorem State.setCmpr_faultRecord (c : Cmpr) : (s.setCmpr c).faultRecord = s.faultRecord := rfl
@[simp] theorem State.setTf_faultRecord (b : Bool) : (s.setTf b).faultRecord = s.faultRecord := rfl
@[simp] theorem State.setHexFlags_faultRecord (w e : Bool) : (s.setHexFlags w e).faultRecord = s.faultRecord := rfl
@[simp] theorem State.setPstate_faultRecord (p : PState) : (s.setPstate p).faultRecord = s.faultRecord := rfl
@[simp] theorem State.setDraws_faultRecord (d : Draws) : (s.setDraws d).faultRecord = s.faultRecord := rfl
@[simp] theorem State.keepRunning_faultRecord (j : Job) : (s.keepRunning j).faultRecord = s.faultRecord := rfl
@[simp] theorem State.finish_faultRecord : s.finish.faultRecord = s.faultRecord := rfl

@[simp] theorem storePrimes_faultRecord (dest : BlumDest) (r q : Nat) :
    (storePrimes dest r q s).faultRecord = s.faultRecord := by
  cases dest <;> simp [storePrimes]

/-! A command with a retry loop records no fault, whether it ends or waits at a retry (R205). -/

@[simp] theorem resumeMrtest_faultRecord (rd : Reg) (k : Nat) : (resumeMrtest rd k s).faultRecord = s.faultRecord := by
  obtain ⟨b, d, h⟩ | ⟨k', d, -, -, h⟩ := resumeMrtest_cases rd k s <;> simp [h]

@[simp] theorem resumeGenprime_faultRecord (rd : Reg) (c : Option Candidate) :
    (resumeGenprime rd c s).faultRecord = s.faultRecord := by
  obtain ⟨p, -, h⟩ | ⟨c', -, h⟩ := resumeGenprime_cases rd c s <;> simp [h]

@[simp] theorem resumeBlum_faultRecord (dest : BlumDest) (f : Option Nat) (c : Option Candidate) :
    (resumeBlum dest f c s).faultRecord = s.faultRecord := by
  obtain ⟨p, q, -, h⟩ | ⟨f', c', -, h⟩ := resumeBlum_cases dest f c s <;> simp [h]

@[simp] theorem resumeSign_faultRecord (a : Imm) : (resumeSign a s).faultRecord = s.faultRecord := by
  obtain ⟨r, b, d, h⟩ | ⟨d, h⟩ := resumeSign_cases a s <;> simp [h]

end FaultRecord

/-! ## Every command -/

/-- Every command is guarded by checks that read the conditions of its Faults line, by rising code above that of ILLCMD,
and its effect leaves the fault record as it was. -/
theorem exec_listsFaults (i : Instr) (s : State) :
    ∃ checks effect, exec i s = guarded checks i s effect ∧
      ListsFaults Cause.illcmd.code checks (faultCondition i s) ∧ effect.faultRecord = s.faultRecord := by
  cases i with
  | add rd ra => exact ⟨_, _, rfl, .more bne_iff_ne (.last .rfl), by simp⟩
  | sub rd ra => exact ⟨_, _, rfl, .more bne_iff_ne (.last .rfl), by simp⟩
  | cmp ra rb => exact ⟨_, _, rfl, .empty, by simp⟩
  | shl rd n => exact ⟨_, _, rfl, .last .rfl, by simp⟩
  | shr rd n => exact ⟨_, _, rfl, .last .rfl, by simp⟩
  | getbit rd pos => exact ⟨_, _, rfl, .last (outsideBlocks_iff rd _), by simp⟩
  | setbit rd pos => exact ⟨_, _, rfl, .more (outsideBlocks_iff rd _) (.last .rfl), by simp⟩
  | clrbit rd pos => exact ⟨_, _, rfl, .more (outsideBlocks_iff rd _) (.last .rfl), by simp⟩
  | copy rd ra => exact ⟨_, _, rfl, .last .rfl, by simp⟩
  | ldb rd a => exact ⟨_, _, rfl, .more (pastBuf_iff _ _) (.last .rfl), by simp⟩
  | stb rd a => exact ⟨_, _, rfl, .last (pastBuf_iff _ _), by simp⟩
  | ldhex rd a => exact ⟨_, _, rfl, .more (pastBuf_iff _ _) (.last .rfl), by split <;> simp⟩
  | sthex rd a => exact ⟨_, _, rfl, .last (pastBuf_iff _ _), by simp⟩
  | mulhalf rd ra rb => exact ⟨_, _, rfl, .more (overHalf_or_iff _ _ _) (.last .rfl), by simp⟩
  | rand rd => exact ⟨_, _, rfl, .last .rfl, by simp⟩
  | tabinit rd => exact ⟨_, _, rfl, .more (not_isSingle_iff rd) (.more .rfl (.last beq_iff_eq)), by simp⟩
  | tabshut rd =>
    exact ⟨_, _, rfl,
      .more (keyTableHeld_iff rd s) (.more (not_isSingle_iff rd) (.last (not_tabActive_iff s rd))), by simp⟩
  | mod rd ra =>
    exact ⟨_, _, rfl,
      .more (not_isSingle_iff ra) (.more (not_tabActive_iff s ra) (.more .rfl (.last (Table.tooLong_iff _ _)))), by simp⟩
  | mulmont rd ra rb rc =>
    exact ⟨_, _, rfl,
      .more (anyWide_four_iff rd ra rb rc) (.more (not_tabActive_iff s rc) (.more .rfl (.last decide_eq_true_iff))),
      by simp⟩
  | exp rd ra rb rc =>
    exact ⟨_, _, rfl,
      .more (anyWide_four_iff rd ra rb rc) (.more (not_tabActive_iff s rc) (.more .rfl (.last (Table.tooLong_iff _ _)))),
      by simp⟩
  | tdiv rd => exact ⟨_, _, rfl, .empty, by simp⟩
  | mrtest rd k =>
    exact ⟨_, _, rfl, .more (not_isSingle_iff rd) (.more decide_eq_true_iff (.last .rfl)), by simp⟩
  | genprime rd => exact ⟨_, _, rfl, .more (not_isSingle_iff rd) (.last .rfl), by simp⟩
  | genblum rd ra rb =>
    exact ⟨_, _, rfl, .more (anyWide_three_iff rd ra rb) (.last (anyTabActive_iff s rd ra rb)), by simp⟩
  | genblumn rd => exact ⟨_, _, rfl, .more (not_isSingle_iff rd) (.last .rfl), by simp⟩
  | gcd rd ra rb => exact ⟨_, _, rfl, .more (lengthsDiffer_iff rd ra rb) (.last .rfl), by simp⟩
  | keygen =>
    exact ⟨_, _, rfl, .more (notReadyForKeygen_iff s.pstate) (.last (anyTabActive_iff s 16 17 18)), by simp⟩
  | sign a =>
    exact ⟨_, _, rfl, .more bne_iff_ne (.more (pastBuf_iff _ _) (.last Bool.or_eq_true_iff)), by simp⟩
  | verify a => exact ⟨_, _, rfl, .more bne_iff_ne (.last (pastBuf_iff _ _)), by simp⟩
  | keyfin => exact ⟨_, _, exec_keyfin s, .last bne_iff_ne, by simp [State.finalizeKeys]⟩

theorem startCommand_of_illegal {w : Word} {e : IllegalWord} (h : decode w = .error e) (s : State) :
    startCommand w s = .next (takeFault .illcmd w s) := by
  rw [startCommand, h]

/-- Settles O11: the first check that holds is the one of lowest code, because the checks stand by rising code. -/
theorem lowestFaultCodeIsRecorded : Obligations.LowestFaultCodeIsRecorded := by
  refine ⟨fun w e s hw => ⟨startCommand_of_illegal hw s, fun i c hc => ?_⟩, fun i s => ?_⟩
  · obtain ⟨_, _, -, hlists, -⟩ := exec_listsFaults i s
    exact hlists.code_gt hc
  · obtain ⟨checks, effect, hexec, hlists, hkeeps⟩ := exec_listsFaults i s
    rw [hexec]
    refine ⟨fun c hc hlow => guarded_of_some (hlists.firstCause_eq_some hc hlow) i s effect, fun hnone => ?_⟩
    simp only [State.faultRecord, Prod.mk.injEq] at hkeeps
    exact guarded_completes (hlists.firstCause_eq_none hnone) hkeeps

end Sys2Proof.Machine
end

section
/-! PROOFS. The statements of spec/30_encoding.md: the decoder and the encoder are inverse on legal words, and a word is
legal exactly when it matches a row of the opcode map (R61, R64, R65). -/

namespace Sys2Proof

/-! ## Zero fields -/

theorem requireZero_true (i : Instr) : requireZero true i = .ok i := rfl

theorem bitsZero_iff (w : Word) (lo len : Nat) : bitsZero w lo len = true ↔ w.toNat / 2 ^ lo % 2 ^ len = 0 := beq_iff_eq

/-- The zero fields of a format R word that uses some of its register fields only. -/
theorem bitsZero_wordR_rd (op : Nat) (rd : Reg) : bitsZero (wordR op rd 0 0 0) 0 21 = true := by
  simp [wordR, bitsZero]; omega

theorem bitsZero_wordR_rdRa (op : Nat) (rd ra : Reg) : bitsZero (wordR op rd ra 0 0) 0 16 = true := by
  simp [wordR, bitsZero]; omega

theorem bitsZero_wordR_low11 (op : Nat) (rd ra rb : Reg) : bitsZero (wordR op rd ra rb 0) 0 11 = true := by
  simp [wordR, bitsZero]; omega

theorem bitsZero_wordR_noRd (op : Nat) (ra rb rc : Reg) : bitsZero (wordR op 0 ra rb rc) 21 5 = true := by
  simp [wordR, bitsZero]; omega

theorem bitsZero_wordR_plain (op : Nat) : bitsZero (wordR op 0 0 0 0) 0 26 = true := by
  simp [wordR, bitsZero]

theorem bitsZero_wordI_imm (op : Nat) (imm : Imm) : bitsZero (wordI op 0 imm) 16 10 = true := by
  simp [wordI, bitsZero]; omega

/-! ## Each form decodes the words it encodes -/

theorem decodeRd_wordR (op : Nat) (rd : Reg) (f : Reg → Instr) : decodeRd (wordR op rd 0 0 0) f = .ok (f rd) := by
  rw [decodeRd, bitsZero_wordR_rd, rdField_wordR, requireZero_true]

theorem decodeRdRa_wordR (op : Nat) (rd ra : Reg) (f : Reg → Reg → Instr) :
    decodeRdRa (wordR op rd ra 0 0) f = .ok (f rd ra) := by
  rw [decodeRdRa, bitsZero_wordR_rdRa, rdField_wordR, raField_wordR, requireZero_true]

theorem decodeRaRb_wordR (op : Nat) (ra rb : Reg) (f : Reg → Reg → Instr) :
    decodeRaRb (wordR op 0 ra rb 0) f = .ok (f ra rb) := by
  rw [decodeRaRb, bitsZero_wordR_noRd, bitsZero_wordR_low11, raField_wordR, rbField_wordR, Bool.and_self,
    requireZero_true]

theorem decodeRdRaRb_wordR (op : Nat) (rd ra rb : Reg) (f : Reg → Reg → Reg → Instr) :
    decodeRdRaRb (wordR op rd ra rb 0) f = .ok (f rd ra rb) := by
  rw [decodeRdRaRb, bitsZero_wordR_low11, rdField_wordR, raField_wordR, rbField_wordR, requireZero_true]

theorem decodeRdRaRbRc_wordR (op : Nat) (rd ra rb rc : Reg) (f : Reg → Reg → Reg → Reg → Instr) :
    decodeRdRaRbRc (wordR op rd ra rb rc) f = .ok (f rd ra rb rc) := by
  rw [decodeRdRaRbRc, bitsZero_wordR_low6, rdField_wordR, raField_wordR, rbField_wordR, rcField_wordR, requireZero_true]

theorem decodeRdImm_wordI (op : Nat) (rd : Reg) (imm : Imm) (f : Reg → Imm → Instr) :
    decodeRdImm (wordI op rd imm) f = .ok (f rd imm) := by
  rw [decodeRdImm, bitsZero_wordI_16_5, rdField_wordI, immField_wordI, requireZero_true]

theorem decodeImm_wordI (op : Nat) (imm : Imm) (f : Imm → Instr) : decodeImm (wordI op 0 imm) f = .ok (f imm) := by
  rw [decodeImm, bitsZero_wordI_imm, immField_wordI, requireZero_true]

theorem decodePlain_wordR (op : Nat) (i : Instr) : decodePlain (wordR op 0 0 0 0) i = .ok i := by
  rw [decodePlain, bitsZero_wordR_plain, requireZero_true]

/-- GENBLUM's word decodes when its three registers are pairwise different (R62). -/
theorem decodeGenblum_wordR (op : Nat) {rd ra rb : Reg} (h : (Instr.genblum rd ra rb).wellFormed = true) :
    decodeGenblum (wordR op rd ra rb 0) = .ok (.genblum rd ra rb) := by
  rw [decodeGenblum, decodeRdRaRb_wordR]
  exact if_pos h

/-- Settles O1: the opcode selects the form that reads back the fields the encoder wrote. -/
theorem decodeInvertsEncode : Obligations.DecodeInvertsEncode := by
  intro i hi
  cases i
  case rand rd | tabinit rd | tabshut rd | tdiv rd | genprime rd | genblumn rd =>
    simp only [encode, decode, opcodeField_wordR, Nat.reduceLT, decodeRd_wordR]
  case add rd ra | sub rd ra | copy rd ra | mod rd ra =>
    simp only [encode, decode, opcodeField_wordR, Nat.reduceLT, decodeRdRa_wordR]
  case cmp ra rb => simp only [encode, decode, opcodeField_wordR, Nat.reduceLT, decodeRaRb_wordR]
  case mulhalf rd ra rb | gcd rd ra rb =>
    simp only [encode, decode, opcodeField_wordR, Nat.reduceLT, decodeRdRaRb_wordR]
  case genblum rd ra rb => simp only [encode, decode, opcodeField_wordR, Nat.reduceLT, decodeGenblum_wordR _ hi]
  case mulmont rd ra rb rc | exp rd ra rb rc =>
    simp only [encode, decode, opcodeField_wordR, Nat.reduceLT, decodeRdRaRbRc_wordR]
  case shl rd n | shr rd n | getbit rd n | setbit rd n | clrbit rd n | ldb rd n | stb rd n | ldhex rd n | sthex rd n
      | mrtest rd n =>
    simp only [encode, decode, opcodeField_wordI, Nat.reduceLT, decodeRdImm_wordI]
  case sign n | verify n => simp only [encode, decode, opcodeField_wordI, Nat.reduceLT, decodeImm_wordI]
  case keygen | keyfin => simp only [encode, decode, opcodeField_wordR, Nat.reduceLT, decodePlain_wordR]

/-! ## Each form re-encodes the words it decodes -/

theorem opcodeField_eq (w : Word) : opcodeField w = w.toNat / 2 ^ 26 := by
  have := w.isLt
  simp [opcodeField, wordField]; omega

/-- The five-bit field at `lo`, as a number. -/
theorem toNat_wordField (w : Word) (lo len : Nat) : (wordField w lo len).toNat = w.toNat / 2 ^ lo % 2 ^ len := by
  rw [wordField, BitVec.toNat_ofNat]

theorem wordR_eq {w : Word} {op : Nat} {rd ra rb rc : Reg}
    (h : op * 2 ^ 26 + rd.toNat * 2 ^ 21 + ra.toNat * 2 ^ 16 + rb.toNat * 2 ^ 11 + rc.toNat * 2 ^ 6 = w.toNat) :
    wordR op rd ra rb rc = w := by
  rw [wordR, h, BitVec.ofNat_toNat, BitVec.setWidth_eq]

theorem wordI_eq {w : Word} {op : Nat} {rd : Reg} {imm : Imm}
    (h : op * 2 ^ 26 + rd.toNat * 2 ^ 21 + imm.toNat = w.toNat) : wordI op rd imm = w := by
  rw [wordI, h, BitVec.ofNat_toNat, BitVec.setWidth_eq]

section Forms

variable {w : Word} {i : Instr}

theorem decodeRd_ok {f : Reg → Instr} (h : decodeRd w f = .ok i) :
    i = f (rdField w) ∧ wordR (opcodeField w) (rdField w) 0 0 0 = w := by
  obtain ⟨hz, rfl⟩ := requireZero_ok h
  rw [bitsZero_iff] at hz
  refine ⟨rfl, wordR_eq ?_⟩
  simp only [opcodeField_eq, rdField, toNat_wordField, BitVec.ofNat_eq_ofNat, BitVec.toNat_ofNat]
  omega

theorem decodeRdRa_ok {f : Reg → Reg → Instr} (h : decodeRdRa w f = .ok i) :
    i = f (rdField w) (raField w) ∧ wordR (opcodeField w) (rdField w) (raField w) 0 0 = w := by
  obtain ⟨hz, rfl⟩ := requireZero_ok h
  rw [bitsZero_iff] at hz
  refine ⟨rfl, wordR_eq ?_⟩
  simp only [opcodeField_eq, rdField, raField, toNat_wordField, BitVec.ofNat_eq_ofNat, BitVec.toNat_ofNat]
  omega

theorem decodeRaRb_ok {f : Reg → Reg → Instr} (h : decodeRaRb w f = .ok i) :
    i = f (raField w) (rbField w) ∧ wordR (opcodeField w) 0 (raField w) (rbField w) 0 = w := by
  obtain ⟨hz, rfl⟩ := requireZero_ok h
  rw [Bool.and_eq_true, bitsZero_iff, bitsZero_iff] at hz
  refine ⟨rfl, wordR_eq ?_⟩
  simp only [opcodeField_eq, raField, rbField, toNat_wordField, BitVec.ofNat_eq_ofNat, BitVec.toNat_ofNat]
  omega

theorem decodeRdRaRb_ok {f : Reg → Reg → Reg → Instr} (h : decodeRdRaRb w f = .ok i) :
    i = f (rdField w) (raField w) (rbField w) ∧ wordR (opcodeField w) (rdField w) (raField w) (rbField w) 0 = w := by
  obtain ⟨hz, rfl⟩ := requireZero_ok h
  rw [bitsZero_iff] at hz
  refine ⟨rfl, wordR_eq ?_⟩
  simp only [opcodeField_eq, rdField, raField, rbField, toNat_wordField, BitVec.ofNat_eq_ofNat, BitVec.toNat_ofNat]
  omega

theorem decodeRdRaRbRc_ok {f : Reg → Reg → Reg → Reg → Instr} (h : decodeRdRaRbRc w f = .ok i) :
    i = f (rdField w) (raField w) (rbField w) (rcField w) ∧
      wordR (opcodeField w) (rdField w) (raField w) (rbField w) (rcField w) = w := by
  obtain ⟨hz, rfl⟩ := requireZero_ok h
  rw [bitsZero_iff] at hz
  refine ⟨rfl, wordR_eq ?_⟩
  simp only [opcodeField_eq, rdField, raField, rbField, rcField, toNat_wordField]
  omega

theorem decodeRdImm_ok {f : Reg → Imm → Instr} (h : decodeRdImm w f = .ok i) :
    i = f (rdField w) (immField w) ∧ wordI (opcodeField w) (rdField w) (immField w) = w := by
  obtain ⟨hz, rfl⟩ := requireZero_ok h
  rw [bitsZero_iff] at hz
  refine ⟨rfl, wordI_eq ?_⟩
  simp only [opcodeField_eq, rdField, immField, toNat_wordField]
  omega

theorem decodeImm_ok {f : Imm → Instr} (h : decodeImm w f = .ok i) :
    i = f (immField w) ∧ wordI (opcodeField w) 0 (immField w) = w := by
  obtain ⟨hz, rfl⟩ := requireZero_ok h
  rw [bitsZero_iff] at hz
  refine ⟨rfl, wordI_eq ?_⟩
  simp only [opcodeField_eq, immField, toNat_wordField, BitVec.ofNat_eq_ofNat, BitVec.toNat_ofNat]
  omega

theorem decodePlain_ok {j : Instr} (h : decodePlain w j = .ok i) : i = j ∧ wordR (opcodeField w) 0 0 0 0 = w := by
  obtain ⟨hz, rfl⟩ := requireZero_ok h
  rw [bitsZero_iff] at hz
  refine ⟨rfl, wordR_eq ?_⟩
  simp only [opcodeField_eq, BitVec.ofNat_eq_ofNat, BitVec.toNat_ofNat]
  omega

/-- A legal GENBLUM word is a legal word of its form whose registers are pairwise different (R62). -/
theorem decodeGenblum_ok_iff :
    decodeGenblum w = .ok i ↔ decodeRdRaRb w .genblum = .ok i ∧ i.wellFormed = true := by
  unfold decodeGenblum
  cases decodeRdRaRb w .genblum with
  | error e => simp
  | ok j =>
    by_cases hj : j.wellFormed = true
    · simp only [hj, if_true]
      exact ⟨fun h => ⟨h, by cases h; exact hj⟩, And.left⟩
    · simp only [hj]
      exact ⟨nofun, fun ⟨h, hi⟩ => absurd hi (by cases h; exact hj)⟩

end Forms

/-- Settles O2: the fields a form reads are all the bits of a legal word that are not 0. -/
theorem encodeInvertsDecode : Obligations.EncodeInvertsDecode := by
  intro w i h
  unfold decode at h
  split at h
  case h_15 hop | h_16 hop | h_17 hop | h_21 hop | h_23 hop | h_25 hop =>
    obtain ⟨rfl, hw⟩ := decodeRd_ok h; rw [hop] at hw; exact ⟨rfl, hw⟩
  case h_1 hop | h_2 hop | h_9 hop | h_18 hop =>
    obtain ⟨rfl, hw⟩ := decodeRdRa_ok h; rw [hop] at hw; exact ⟨rfl, hw⟩
  case h_3 hop => obtain ⟨rfl, hw⟩ := decodeRaRb_ok h; rw [hop] at hw; exact ⟨rfl, hw⟩
  case h_14 hop | h_26 hop => obtain ⟨rfl, hw⟩ := decodeRdRaRb_ok h; rw [hop] at hw; exact ⟨rfl, hw⟩
  case h_24 hop =>
    obtain ⟨h, hwf⟩ := decodeGenblum_ok_iff.1 h
    obtain ⟨rfl, hw⟩ := decodeRdRaRb_ok h; rw [hop] at hw; exact ⟨hwf, hw⟩
  case h_19 hop | h_20 hop => obtain ⟨rfl, hw⟩ := decodeRdRaRbRc_ok h; rw [hop] at hw; exact ⟨rfl, hw⟩
  case h_4 hop | h_5 hop | h_6 hop | h_7 hop | h_8 hop | h_10 hop | h_11 hop | h_12 hop | h_13 hop | h_22 hop =>
    obtain ⟨rfl, hw⟩ := decodeRdImm_ok h; rw [hop] at hw; exact ⟨rfl, hw⟩
  case h_28 hop | h_29 hop => obtain ⟨rfl, hw⟩ := decodeImm_ok h; rw [hop] at hw; exact ⟨rfl, hw⟩
  case h_27 hop | h_30 hop => obtain ⟨rfl, hw⟩ := decodePlain_ok h; rw [hop] at hw; exact ⟨rfl, hw⟩
  case h_31 => cases h

/-! ## The rows of the opcode map -/

/-- The mask of `len` bits of a word from bit `lo` up. -/
def fieldMask (lo len : Nat) : Word := BitVec.ofNat 32 ((2 ^ len - 1) * 2 ^ lo)

/-- A word under the mask of a field is the field, in its place. -/
theorem toNat_and_fieldMask (w : Word) {lo len : Nat} (h : lo + len ≤ 32) :
    (w &&& fieldMask lo len).toNat = w.toNat / 2 ^ lo % 2 ^ len * 2 ^ lo := by
  have hlt : (2 ^ len - 1) * 2 ^ lo < 2 ^ 32 := by
    calc (2 ^ len - 1) * 2 ^ lo < 2 ^ len * 2 ^ lo :=
          Nat.mul_lt_mul_of_pos_right (Nat.sub_lt (Nat.two_pow_pos _) one_pos) (Nat.two_pow_pos _)
      _ = 2 ^ (lo + len) := by rw [← pow_add, add_comm]
      _ ≤ 2 ^ 32 := Nat.pow_le_pow_right two_pos h
  rw [BitVec.toNat_and, fieldMask, BitVec.toNat_ofNat, Nat.mod_eq_of_lt hlt]
  refine Nat.eq_of_testBit_eq fun i => ?_
  rw [Nat.testBit_and, Nat.testBit_mul_two_pow, Nat.testBit_mul_two_pow, Nat.testBit_mod_two_pow, Nat.testBit_div_two_pow,
    Nat.testBit_two_pow_sub_one]
  by_cases hi : lo ≤ i
  · simp [hi, Bool.and_comm]
  · simp [hi]

theorem and_fieldMask_eq_zero_iff (w : Word) {lo len : Nat} (h : lo + len ≤ 32) :
    w &&& fieldMask lo len = 0#32 ↔ bitsZero w lo len = true := by
  rw [bitsZero_iff, ← BitVec.toNat_inj, toNat_and_fieldMask w h, BitVec.toNat_ofNat, Nat.zero_mod,
    mul_eq_zero, or_iff_left (Nat.two_pow_pos lo).ne']

theorem and_opcodeMask_iff (w : Word) {op : Nat} (h : op < 64) :
    w &&& fieldMask 26 6 = BitVec.ofNat 32 (op * 2 ^ 26) ↔ opcodeField w = op := by
  have := w.isLt
  rw [← BitVec.toNat_inj, toNat_and_fieldMask w (by decide), BitVec.toNat_ofNat, opcodeField_eq]
  omega

/-- A word matches a row when it has the row's opcode and nothing under the rest of the mask. -/
theorem and_row_iff (w : Word) {op : Nat} {zeros : Word} (hop : op < 64) (hz : zeros &&& fieldMask 26 6 = 0#32) :
    w &&& (fieldMask 26 6 ||| zeros) = BitVec.ofNat 32 (op * 2 ^ 26) ↔ opcodeField w = op ∧ w &&& zeros = 0#32 := by
  have hv : BitVec.ofNat 32 (op * 2 ^ 26) &&& fieldMask 26 6 = BitVec.ofNat 32 (op * 2 ^ 26) := by
    rw [and_opcodeMask_iff _ hop, opcodeField_eq, BitVec.toNat_ofNat]
    omega
  have hself : (fieldMask 26 6 ||| zeros) &&& fieldMask 26 6 = fieldMask 26 6 := by
    rw [BitVec.and_or_distrib_right, BitVec.and_self, hz, BitVec.or_zero]
  have hzeros : (fieldMask 26 6 ||| zeros) &&& zeros = zeros := by
    rw [BitVec.and_or_distrib_right, BitVec.and_self, BitVec.and_comm, hz, BitVec.zero_or]
  rw [← and_opcodeMask_iff w hop]
  refine ⟨fun h => ⟨?_, ?_⟩, fun ⟨h, h'⟩ => by rw [BitVec.and_or_distrib_left, h, h', BitVec.or_zero]⟩
  · rw [← hself, ← BitVec.and_assoc, h, hv]
  · rw [← hzeros, ← BitVec.and_assoc, h, ← hv, BitVec.and_assoc, BitVec.and_comm _ zeros, hz, BitVec.and_zero]

/-- The opcodes of R64 in the order of `opcodeMap`, each with the mask of the bits that are 0 in its words (R61). -/
def opcodeForms : List (Nat × Word) :=
  [(0x01, fieldMask 0 16), (0x02, fieldMask 0 16), (0x03, fieldMask 21 5 ||| fieldMask 0 11), (0x04, fieldMask 16 5),
    (0x05, fieldMask 16 5), (0x06, fieldMask 16 5), (0x07, fieldMask 16 5), (0x08, fieldMask 16 5),
    (0x09, fieldMask 0 16), (0x0A, fieldMask 16 5), (0x0B, fieldMask 16 5), (0x0C, fieldMask 16 5),
    (0x0D, fieldMask 16 5), (0x0E, fieldMask 0 11), (0x0F, fieldMask 0 21), (0x10, fieldMask 0 21),
    (0x11, fieldMask 0 21), (0x12, fieldMask 0 16), (0x13, fieldMask 0 6), (0x14, fieldMask 0 6), (0x18, fieldMask 0 21),
    (0x19, fieldMask 16 5), (0x1A, fieldMask 0 21), (0x1C, fieldMask 0 21), (0x1D, fieldMask 0 11),
    (0x20, fieldMask 0 26), (0x21, fieldMask 16 10), (0x22, fieldMask 16 10), (0x23, fieldMask 0 26),
    (0x1B, fieldMask 0 11)]

theorem opcodeMap_eq :
    opcodeMap = opcodeForms.map fun f => (BitVec.ofNat 32 (f.1 * 2 ^ 26), fieldMask 26 6 ||| f.2) := by decide

/-- A word matches some row exactly when it has the opcode of a form and 0 in the zero bits of the form. -/
theorem row_matches_iff (w : Word) :
    (∃ row ∈ opcodeMap, w &&& row.2 = row.1) ↔ ∃ f ∈ opcodeForms, opcodeField w = f.1 ∧ w &&& f.2 = 0#32 := by
  have hforms : ∀ f ∈ opcodeForms, f.1 < 64 ∧ f.2 &&& fieldMask 26 6 = 0#32 := by decide
  rw [opcodeMap_eq]
  constructor
  · rintro ⟨row, hrow, h⟩
    obtain ⟨f, hf, rfl⟩ := List.mem_map.1 hrow
    exact ⟨f, hf, (and_row_iff w (hforms f hf).1 (hforms f hf).2).1 h⟩
  · rintro ⟨f, hf, h⟩
    exact ⟨_, List.mem_map_of_mem hf, (and_row_iff w (hforms f hf).1 (hforms f hf).2).2 h⟩

/-- No opcode has two forms. -/
theorem row_matches_form_iff {w : Word} {op : Nat} {zeros : Word} (hop : opcodeField w = op)
    (hmem : (op, zeros) ∈ opcodeForms) :
    (∃ row ∈ opcodeMap, w &&& row.2 = row.1) ↔ w &&& zeros = 0#32 := by
  have hunique : ∀ f ∈ opcodeForms, ∀ g ∈ opcodeForms, f.1 = g.1 → f.2 = g.2 := by decide
  rw [row_matches_iff]
  refine ⟨fun ⟨f, hf, hfop, hz⟩ => ?_, fun hz => ⟨_, hmem, hop, hz⟩⟩
  rwa [hunique f hf _ hmem (hfop.symm.trans hop)] at hz

/-- GENBLUM's row alone. -/
theorem genblumRow_iff (w : Word) :
    w &&& 0xFC0007FF = 0x6C000000 ↔ opcodeField w = 0x1B ∧ bitsZero w 0 11 = true := by
  rw [← and_fieldMask_eq_zero_iff w (by decide), ← and_row_iff w (by decide) (by decide)]
  rfl

theorem extractLsb'_eq_wordField (w : Word) (lo len : Nat) : w.extractLsb' lo len = wordField w lo len := by
  rw [BitVec.extractLsb', wordField, Nat.shiftRight_eq_div_pow]

/-- A form answers a command exactly when its zero bits are 0. -/
theorem requireZero_legal_iff {zero : Bool} {i : Instr} : (∃ j, requireZero zero i = .ok j) ↔ zero = true :=
  ⟨fun ⟨_, h⟩ => (requireZero_ok h).1, fun h => ⟨i, by rw [h, requireZero_true]⟩⟩

theorem pairwiseDifferent_iff (a b c : Reg) : pairwiseDifferent a b c = true ↔ a ≠ b ∧ a ≠ c ∧ b ≠ c := by
  simp only [pairwiseDifferent, Bool.and_eq_true, bne_iff_ne, and_assoc]

theorem decodeGenblum_legal_iff (w : Word) :
    (∃ i, decodeGenblum w = .ok i) ↔
      bitsZero w 0 11 = true ∧ rdField w ≠ raField w ∧ rdField w ≠ rbField w ∧ raField w ≠ rbField w := by
  simp only [decodeGenblum_ok_iff, ← pairwiseDifferent_iff]
  constructor
  · rintro ⟨i, h, hwf⟩
    obtain ⟨hz, rfl⟩ := requireZero_ok h
    exact ⟨hz, hwf⟩
  · rintro ⟨hz, hd⟩
    exact ⟨.genblum _ _ _, by rw [decodeRdRaRb, hz, requireZero_true], hd⟩

/-- What O3 says of a word with an opcode other than GENBLUM's, once its form is known. -/
theorem legal_iff_of_form {w : Word} {op lo len : Nat} {legal different : Prop} (hop : opcodeField w = op)
    (hlegal : legal ↔ bitsZero w lo len = true) (hmem : (op, fieldMask lo len) ∈ opcodeForms := by decide)
    (hlen : lo + len ≤ 32 := by decide) (hne : op ≠ 0x1B := by decide) :
    legal ↔ (∃ row ∈ opcodeMap, w &&& row.2 = row.1) ∧ (w &&& 0xFC0007FF = 0x6C000000 → different) := by
  rw [row_matches_form_iff hop hmem, and_fieldMask_eq_zero_iff w hlen, genblumRow_iff, hlegal]
  exact (and_iff_left fun h => absurd (hop.symm.trans h.1) hne).symm

/-- Settles O3: the form an opcode selects asks for 0 in just the bits that the row's mask adds to the opcode's. -/
theorem wordIsLegalExactlyWhenARowMatches : Obligations.WordIsLegalExactlyWhenARowMatches := by
  intro w
  unfold decode
  split
  case h_3 hop =>
    rw [row_matches_form_iff hop (zeros := fieldMask 21 5 ||| fieldMask 0 11) (by decide), genblumRow_iff,
      BitVec.and_or_distrib_left, BitVec.or_eq_zero_iff, and_fieldMask_eq_zero_iff w (by decide),
      and_fieldMask_eq_zero_iff w (by decide), ← Bool.and_eq_true, decodeRaRb, requireZero_legal_iff]
    exact (and_iff_left fun h => absurd (hop.symm.trans h.1) (by decide)).symm
  case h_24 hop =>
    rw [row_matches_form_iff hop (zeros := fieldMask 0 11) (by decide), genblumRow_iff,
      and_fieldMask_eq_zero_iff w (by decide), decodeGenblum_legal_iff]
    simp only [extractLsb'_eq_wordField, hop, true_and]
    exact and_congr_right fun h => ⟨fun hd _ => hd, fun hd => hd h⟩
  case h_31 =>
    refine iff_of_false nofun fun ⟨hrow, _⟩ => ?_
    obtain ⟨f, hf, hop, -⟩ := (row_matches_iff w).1 hrow
    simp only [opcodeForms, List.mem_cons, List.not_mem_nil, or_false] at hf
    rcases hf with rfl | rfl | rfl | rfl | rfl | rfl | rfl | rfl | rfl | rfl | rfl | rfl | rfl | rfl | rfl | rfl | rfl |
      rfl | rfl | rfl | rfl | rfl | rfl | rfl | rfl | rfl | rfl | rfl | rfl | rfl <;> contradiction
  all_goals
    rename_i hop
    exact legal_iff_of_form hop requireZero_legal_iff

/-- Settles O4: the decoder run on the words. -/
theorem sampleWordsDecode : Obligations.SampleWordsDecode :=
  ⟨rfl, rfl, rfl, rfl, rfl, rfl, rfl, rfl, rfl, rfl, rfl⟩

end Sys2Proof
end

section
/-! SUPPORT. The values the prime searches hand on have the shape of their kind (spec/44_primality_generation.md R153,
R154), whatever is drawn. -/

namespace Sys2Proof.Machine

/-! ## Candidates -/

/-- A value with its top and low bit forced: below the bound, with both bits, the other bits as drawn. -/
theorem or_top_or_one {v n : Nat} (hv : v < 2 ^ (n + 1)) :
    2 ^ n ≤ v ||| 2 ^ n ||| 1 ∧ v ||| 2 ^ n ||| 1 < 2 ^ (n + 1) ∧ (v ||| 2 ^ n ||| 1) % 2 = 1 := by
  refine ⟨Nat.right_le_or.trans Nat.left_le_or, ?_, ?_⟩
  · exact Nat.or_lt_two_pow (Nat.or_lt_two_pow hv (Nat.pow_lt_pow_right one_lt_two (Nat.lt_succ_self n)))
      (Nat.one_lt_two_pow (Nat.succ_ne_zero n))
  · simp

/-- A value cut to `n + 1` bits with its top bit forced. -/
theorem mod_or_top (v n : Nat) : 2 ^ n ≤ v % 2 ^ (n + 1) ||| 2 ^ n ∧ v % 2 ^ (n + 1) ||| 2 ^ n < 2 ^ (n + 1) :=
  ⟨Nat.right_le_or, Nat.or_lt_two_pow (Nat.mod_lt _ (Nat.two_pow_pos _))
    (Nat.pow_lt_pow_right one_lt_two (Nat.lt_succ_self n))⟩

theorem candidateOf_full (v : Nat) : candidateOf .full v = v ||| 2 ^ 1023 ||| 1 := rfl

theorem candidateOf_half (v : Nat) : candidateOf .half v = v % 2 ^ 512 ||| 2 ^ 511 := rfl

theorem screened_half (c : Nat) : screened .half c = (decide (c % 4 = 3) && trialDiv c) := rfl

/-- The shape of the primes of each kind. -/
def shapeOf : PrimeKind → Nat → Prop
  | .full => FullShape
  | .half => HalfShape

/-- A candidate drawn below `2^1024` that passes the screen has the shape of its kind. -/
theorem shapeOf_of_screened {kind : PrimeKind} {v : Nat} (hv : v < 2 ^ 1024)
    (h : screened kind (candidateOf kind v) = true) : shapeOf kind (candidateOf kind v) := by
  cases kind with
  | full =>
    obtain ⟨hlow, hhigh, hodd⟩ := or_top_or_one (n := 1023) hv
    exact ⟨hlow, hhigh, hodd, h⟩
  | half =>
    rw [screened_half, Bool.and_eq_true, decide_eq_true_iff] at h
    obtain ⟨hlow, hhigh⟩ := mod_or_top v 511
    exact ⟨hlow, hhigh, h⟩

/-! ## The searches -/

/-- What the search for one prime answers, from a candidate of the kind's shape: a value of the shape, or a candidate of the
shape with rounds left. -/
theorem searchPrime_shape {kind : PrimeKind} {cand : Option Candidate} (h : CandidateOk (shapeOf kind) cand) (d : Draws) :
    (∀ p, (searchPrime kind cand d).1 = .found p → shapeOf kind p) ∧
      ∀ c, (searchPrime kind cand d).1 = .retry c → CandidateOk (shapeOf kind) c := by
  have htest : ∀ (c : Candidate) (d : Draws), CandidateOk (shapeOf kind) (some c) →
      (∀ p, (testCandidate c d).1 = .found p → shapeOf kind p) ∧
        ∀ c', (testCandidate c d).1 = .retry c' → CandidateOk (shapeOf kind) c' := by
    rintro c d ⟨hshape, -, hrounds⟩
    obtain e | e | ⟨k, hk, hk', e⟩ := testCandidate_cases c d <;> rw [e]
    · exact ⟨fun p hp => by cases hp; exact hshape, nofun⟩
    · exact ⟨nofun, fun c' hc' => by cases hc'; trivial⟩
    · exact ⟨nofun, fun c' hc' => by cases hc'; exact ⟨hshape, hk, hk'.trans hrounds⟩⟩
  cases cand with
  | some c => exact htest c d h
  | none =>
    unfold searchPrime
    dsimp only
    split
    next hs => exact htest _ _ ⟨shapeOf_of_screened (randFill_lt d) hs, Nat.le_add_left 1 2, le_rfl⟩
    next => exact ⟨nofun, fun c' hc' => by cases hc'; trivial⟩

/-- What the search for the second prime answers. -/
theorem searchSecond_eq (r : Nat) (c : Option Candidate) (d : Draws) :
    searchSecond r c d =
      match searchPrime .half c d with
      | (.found q, d') => (.found r q, d')
      | (.retry c', d') => (.retry (some r) c', d') := by
  unfold searchSecond
  rcases searchPrime .half c d with ⟨_ | _, d'⟩ <;> rfl

theorem searchSecond_shape {r : Nat} (hr : HalfShape r) {c : Option Candidate} (hc : CandidateOk HalfShape c) (d : Draws) :
    (∀ p q, (searchSecond r c d).1 = .found p q → HalfShape p ∧ HalfShape q) ∧
      ∀ f' c', (searchSecond r c d).1 = .retry f' c' → FirstOk f' ∧ CandidateOk HalfShape c' := by
  have h := searchPrime_shape (kind := .half) hc d
  rw [searchSecond_eq]
  rcases e : searchPrime .half c d with ⟨q | c', d'⟩ <;> rw [e] at h
  · exact ⟨fun p' q' e' => by cases e'; exact ⟨hr, h.1 _ rfl⟩, nofun⟩
  · exact ⟨nofun, fun f' c' e' => by cases e'; exact ⟨hr, h.2 _ rfl⟩⟩

/-- The search for the first prime, which goes on to the second in the same step. -/
theorem searchPair_none (c : Option Candidate) (d : Draws) :
    searchPair none c d =
      match searchPrime .half c d with
      | (.found r, d') => searchSecond r none d'
      | (.retry c', d') => (.retry none c', d') := by
  unfold searchPair
  dsimp only
  rcases searchPrime .half c d with ⟨_ | _, d'⟩ <;> rfl

theorem searchPair_some (r : Nat) (c : Option Candidate) (d : Draws) : searchPair (some r) c d = searchSecond r c d := rfl

/-- What the search for a pair answers, from a first prime and a candidate of the half-width shape. -/
theorem searchPair_shape {f : Option Nat} (hf : FirstOk f) {c : Option Candidate} (hc : CandidateOk HalfShape c)
    (d : Draws) :
    (∀ p q, (searchPair f c d).1 = .found p q → HalfShape p ∧ HalfShape q) ∧
      ∀ f' c', (searchPair f c d).1 = .retry f' c' → FirstOk f' ∧ CandidateOk HalfShape c' := by
  cases f with
  | some r => exact searchSecond_shape hf hc d
  | none =>
    have h := searchPrime_shape (kind := .half) hc d
    rw [searchPair_none]
    rcases e : searchPrime .half c d with ⟨r | c', d'⟩ <;> rw [e] at h
    · exact searchSecond_shape (h.1 _ rfl) (c := none) trivial d'
    · exact ⟨nofun, fun f' c' e' => by cases e'; exact ⟨trivial, h.2 _ rfl⟩⟩

/-- The product of two half-width primes fits a single-width register, and is not small. -/
theorem HalfShape.mul_bounds {p q : Nat} (hp : HalfShape p) (hq : HalfShape q) :
    2 ^ 1022 ≤ p * q ∧ p * q < 2 ^ 1024 := by
  obtain ⟨hp1, hp2, -⟩ := hp
  obtain ⟨hq1, hq2, -⟩ := hq
  exact ⟨(pow_add 2 511 511).trans_le (Nat.mul_le_mul hp1 hq1), (Nat.mul_lt_mul'' hp2 hq2).trans_eq (pow_add 2 512 512).symm⟩

theorem HalfShape.lt {p : Nat} (h : HalfShape p) : p < 2 ^ 1024 :=
  h.2.1.trans (Nat.pow_lt_pow_right one_lt_two (by decide))

theorem HalfShape.pos {p : Nat} (h : HalfShape p) : 0 < p := (Nat.two_pow_pos _).trans_le h.1

end Sys2Proof.Machine
end

section
/-! PROOFS. The invariant of the machine holds at reset and every step keeps it (spec/10_state.md R12, R18, R23;
spec/45_esrabin_protocol.md R180). The parts of it that speak of registers, tables, BUF and PSTATE are kept update by
update; the running command and the fault record are read off the outcome. -/

namespace Sys2Proof.Machine

/-- The parts of the invariant that speak of registers, tables, BUF and PSTATE. -/
def StoreInv (s : State) : Prop := (∀ r, TableInv s r) ∧ KeyInv s ∧ BufInv s ∧ s.pstate ≠ .verifying

theorem inv_iff (s : State) : Inv s ↔ StoreInv s ∧ RunInv s ∧ FaultInv s := by
  unfold Inv StoreInv
  tauto

/-! ## The updates -/

section Updates

variable {s : State}

@[simp] theorem storeInv_setCf (c : Bool) : StoreInv (s.setCf c) ↔ StoreInv s := .rfl
@[simp] theorem storeInv_setCmpr (c : Cmpr) : StoreInv (s.setCmpr c) ↔ StoreInv s := .rfl
@[simp] theorem storeInv_setTf (b : Bool) : StoreInv (s.setTf b) ↔ StoreInv s := .rfl
@[simp] theorem storeInv_setHexFlags (w e : Bool) : StoreInv (s.setHexFlags w e) ↔ StoreInv s := .rfl
@[simp] theorem storeInv_setDraws (d : Draws) : StoreInv (s.setDraws d) ↔ StoreInv s := .rfl
@[simp] theorem storeInv_keepRunning (j : Job) : StoreInv (s.keepRunning j) ↔ StoreInv s := .rfl
@[simp] theorem storeInv_finish : StoreInv s.finish ↔ StoreInv s := .rfl
@[simp] theorem storeInv_takeFault (c : Cause) (w : Word) : StoreInv (takeFault c w s) ↔ StoreInv s := .rfl

/-- A register that is written while its table is not active is none whose table is active. -/
theorem State.x_setX_of_tabActive {r q : Reg} (hr : s.tabActive r = false) (v : Nat) (hq : s.tabActive q = true) :
    (s.setX r v).x q = s.x q :=
  s.x_setX_ne v fun e => by rw [e, hr] at hq; cases hq

theorem KeysHeld.setX (h : KeysHeld s) {r : Reg} (hr : s.tabActive r = false) (v : Nat) : KeysHeld (s.setX r v) := by
  obtain ⟨hn, hp, hq, hshapes⟩ := h
  refine ⟨by simpa using hn, by simpa using hp, by simpa using hq, ?_⟩
  rwa [State.x_setX_of_tabActive hr v hn, State.x_setX_of_tabActive hr v hp, State.x_setX_of_tabActive hr v hq]

theorem storeInv_setX (h : StoreInv s) {r : Reg} (hr : s.tabActive r = false) (v : Nat) : StoreInv (s.setX r v) := by
  obtain ⟨htab, hkey, hbuf, hp⟩ := h
  refine ⟨fun q hq => ?_, fun hk => (hkey (by simpa using hk)).setX hr v, by simpa [BufInv] using hbuf, by simpa using hp⟩
  rw [State.setX_tabActive] at hq
  rw [State.x_setX_of_tabActive hr v hq, State.setX_tab]
  exact htab q hq

theorem storeInv_memWrite (h : StoreInv s) {a : Nat} {bytes : List Byte} (ha : a + bytes.length ≤ Config.bufSize) :
    StoreInv (s.memWrite a bytes) := by
  obtain ⟨htab, hkey, ⟨hwf, hin⟩, hp⟩ := h
  exact ⟨htab, hkey, ⟨Memory.wf_insertList bytes _ a hwf, Memory.inBuf_insertList bytes _ a hin ha⟩, hp⟩

/-- A change of one table keeps every other part. -/
theorem storeInv_setTab (h : StoreInv s) {r : Reg} {t : Table} (ht : TableInv (s.setTab r t) r)
    (hkeys : KeysHeld s → s.pstate = .keysGenerated ∨ s.pstate = .signing → KeysHeld (s.setTab r t)) :
    StoreInv (s.setTab r t) := by
  obtain ⟨htab, hkey, hbuf, hp⟩ := h
  refine ⟨fun q => ?_, fun hk => ?_, by simpa [BufInv] using hbuf, by simpa using hp⟩
  · by_cases hq : q = r
    · exact hq ▸ ht
    · have htq : (s.setTab r t).tab q = s.tab q := by rw [s.tab_setTab, if_neg fun e => hq e.1]
      unfold TableInv State.tabActive
      rw [htq, State.setTab_x]
      exact htab q
  · rw [State.setTab_pstate] at hk
    exact hkeys (hkey hk) hk

theorem tableInv_openTab {r : Reg} (hr : isSingle r = true) (hx : s.x r ≠ 0) : TableInv (s.openTab r) r := by
  refine tableInv_of_tableOf ?_ (Nat.pos_of_ne_zero (by simpa using hx)) ?_
  · rw [s.tab_openTab_self ((isSingle_iff r).1 hr), State.openTab_x]
  · rw [State.openTab_x, ← regLen_of_single hr]
    exact s.x_lt r

/-- Opening a table opens no other and closes none. -/
theorem KeysHeld.openTab (h : KeysHeld s) (r : Reg) : KeysHeld (s.openTab r) := by
  obtain ⟨hn, hp, hq, hshapes⟩ := h
  simpa [KeysHeld, State.tabActive_openTab, hn, hp, hq] using hshapes

theorem storeInv_openTab (h : StoreInv s) {r : Reg} (hr : isSingle r = true) (hx : s.x r ≠ 0) : StoreInv (s.openTab r) :=
  storeInv_setTab h (tableInv_openTab hr hx) fun hk _ => hk.openTab r

/-- A table that is no key table while the keys are held may be closed. -/
theorem storeInv_closeTab (h : StoreInv s) {r : Reg}
    (hr : s.pstate = .keysGenerated ∨ s.pstate = .signing → r ≠ regKN ∧ r ≠ regKP ∧ r ≠ regKQ) :
    StoreInv (s.closeTab r) := by
  refine storeInv_setTab h (tableInv_of_inactive (s.tabActive_closeTab_self r)) fun ⟨hn, hp, hq, hshapes⟩ hk => ?_
  obtain ⟨hrn, hrp, hrq⟩ := hr hk
  have hkeep : ∀ q, r ≠ q → s.tabActive q = true → (s.closeTab r).tabActive q = true := fun q hne hq => by
    rw [s.tabActive_closeTab, hq, decide_eq_false (Ne.symm hne)]; rfl
  refine ⟨hkeep _ hrn hn, hkeep _ hrp hp, hkeep _ hrq hq, ?_⟩
  rwa [State.setTab_x, State.setTab_x, State.setTab_x]

theorem storeInv_setPstate (h : StoreInv s) {p : PState} (hp : p ≠ .verifying)
    (hkeys : p = .keysGenerated ∨ p = .signing → KeysHeld s) : StoreInv (s.setPstate p) := by
  obtain ⟨htab, -, hbuf, -⟩ := h
  exact ⟨htab, hkeys, hbuf, hp⟩

end Updates

/-- A CORE that runs nothing is not in the state Signing. -/
theorem runInv_of_idle {s : State} (hrun : s.run = none) : RunInv s ↔ s.pstate ≠ .signing := by
  simp [RunInv, hrun]

/-! ## A command that works on -/

/-- MRTEST on a register whose table it has opened. -/
theorem resumeMrtest_keeps {s : State} (h : StoreInv s) {rd : Reg} (hrd : isSingle rd = true) (hx : 3 ≤ s.x rd)
    (hact : s.tabActive rd = true) (hp : s.pstate ≠ .signing)
    (hkeys : s.pstate = .keysGenerated → rd ≠ regKN ∧ rd ≠ regKP ∧ rd ≠ regKQ) (k : Nat) :
    StoreInv (resumeMrtest rd k s) ∧ RunInv (resumeMrtest rd k s) := by
  obtain ⟨b, d, e⟩ | ⟨k', d, hk, -, e⟩ := resumeMrtest_cases rd k s <;> rw [e]
  · refine ⟨?_, (runInv_of_idle rfl).2 (by simpa using hp)⟩
    simpa using storeInv_closeTab h fun hk => hkeys (hk.resolve_right hp)
  · exact ⟨h, hrd, hx, hact, hk, hp, hkeys⟩

theorem resumeGenprime_keeps {s : State} (h : StoreInv s) {rd : Reg} (hrd : isSingle rd = true)
    (hact : s.tabActive rd = false) {c : Option Candidate} (hc : CandidateOk FullShape c) (hp : s.pstate ≠ .signing) :
    StoreInv (resumeGenprime rd c s) ∧ RunInv (resumeGenprime rd c s) := by
  obtain ⟨p, -, e⟩ | ⟨c', hc', e⟩ := resumeGenprime_cases rd c s <;> rw [e]
  · exact ⟨by simpa using storeInv_setX h hact p, (runInv_of_idle rfl).2 (by simpa using hp)⟩
  · exact ⟨h, hrd, hact, (searchPrime_shape (kind := .full) hc s.draws).2 c' hc', hp⟩

/-! ### The end of KEYGEN -/

/-- The key registers after KEYGEN has stored its primes (R181). -/
theorem storePrimes_keygen_x (s : State) {p q : Nat} (hp : HalfShape p) (hq : HalfShape q) :
    (storePrimes .keygen p q s).x regKP = p ∧ (storePrimes .keygen p q s).x regKQ = q ∧
      (storePrimes .keygen p q s).x regKN = p * q ∧ KeepsRegs s (storePrimes .keygen p q s) [regKN, regKP, regKQ] := by
  have hlenP : regLen regKP = 1024 := rfl
  have hlenQ : regLen regKQ = 1024 := rfl
  have hlenN : regLen regKN = 1024 := rfl
  refine ⟨?_, ?_, ?_, fun r hr => ?_⟩
  all_goals simp only [storePrimes, State.setPstate_x, State.openTab_x]
  · rw [State.x_setX_ne _ _ (by decide), State.x_setX_ne _ _ (by decide), State.x_setX_self, hlenP,
      Nat.mod_eq_of_lt hp.lt]
  · rw [State.x_setX_ne _ _ (by decide), State.x_setX_self, hlenQ, Nat.mod_eq_of_lt hq.lt]
  · rw [State.x_setX_self, hlenN, Nat.mod_eq_of_lt (hp.mul_bounds hq).2]
  · simp only [List.mem_cons, List.not_mem_nil, or_false, not_or] at hr
    obtain ⟨hn, hp, hq⟩ := hr
    rw [State.x_setX_ne _ _ hn, State.x_setX_ne _ _ hq, State.x_setX_ne _ _ hp]

/-- The tables after KEYGEN has stored its primes: those of the three key registers are opened (R181). -/
theorem storePrimes_keygen_tab (s : State) (p q : Nat) :
    (∀ r, r = regKN ∨ r = regKP ∨ r = regKQ →
      (storePrimes .keygen p q s).tab r = tableOf ((storePrimes .keygen p q s).x r)) ∧
      KeepsTabs s (storePrimes .keygen p q s) [regKN, regKP, regKQ] := by
  constructor
  · rintro r (rfl | rfl | rfl) <;> simp [storePrimes, State.tab_openTab, regKN, regKP, regKQ, isSingle]
  · intro r hr
    simp only [List.mem_cons, List.not_mem_nil, or_false, not_or] at hr
    obtain ⟨hn, hp, hq⟩ := hr
    simp [storePrimes, State.tab_openTab, hn, hp, hq]

theorem storePrimes_keygen_tableInv (s : State) {p q : Nat} (hp : HalfShape p) (hq : HalfShape q) {r : Reg}
    (hr : r = regKN ∨ r = regKP ∨ r = regKQ) :
    (storePrimes .keygen p q s).tabActive r = true ∧ TableInv (storePrimes .keygen p q s) r := by
  have htab := (storePrimes_keygen_tab s p q).1 r hr
  obtain ⟨hxp, hxq, hxn, -⟩ := storePrimes_keygen_x s hp hq
  refine ⟨by rw [State.tabActive, htab, tableOf_active], ?_⟩
  rcases hr with rfl | rfl | rfl
  · exact tableInv_of_tableOf htab (by rw [hxn]; exact Nat.mul_pos hp.pos hq.pos) (by rw [hxn]; exact (hp.mul_bounds hq).2)
  · exact tableInv_of_tableOf htab (by rw [hxp]; exact hp.pos) (by rw [hxp]; exact hp.lt)
  · exact tableInv_of_tableOf htab (by rw [hxq]; exact hq.pos) (by rw [hxq]; exact hq.lt)

theorem storePrimes_keygen_keysHeld (s : State) {p q : Nat} (hp : HalfShape p) (hq : HalfShape q) :
    KeysHeld (storePrimes .keygen p q s) := by
  obtain ⟨hxp, hxq, hxn, -⟩ := storePrimes_keygen_x s hp hq
  refine ⟨(storePrimes_keygen_tableInv s hp hq (.inl rfl)).1, (storePrimes_keygen_tableInv s hp hq (.inr (.inl rfl))).1,
    (storePrimes_keygen_tableInv s hp hq (.inr (.inr rfl))).1, ?_⟩
  rw [hxp, hxq, hxn]
  exact ⟨hp, hq, rfl⟩

/-- The primes are stored in registers whose tables are not active. -/
theorem storePrimes_keeps {s : State} (h : StoreInv s) {dest : BlumDest} (hdest : DestOk s dest)
    (hsign : s.pstate ≠ .signing) {p q : Nat} (hp : HalfShape p) (hq : HalfShape q) :
    StoreInv (storePrimes dest p q s) ∧ (storePrimes dest p q s).pstate ≠ .signing := by
  cases dest with
  | genblum rd ra rb =>
    obtain ⟨-, hreg⟩ := hdest
    refine ⟨storeInv_setX (storeInv_setX (storeInv_setX h (hreg ra (by simp)).2 p) ?_ q) ?_ _, by
      simpa [storePrimes] using hsign⟩
    · simpa using (hreg rb (by simp)).2
    · simpa using (hreg rd (by simp)).2
  | genblumn rd => exact ⟨storeInv_setX h hdest.2 _, by simpa [storePrimes] using hsign⟩
  | keygen =>
    obtain ⟨-, hn, hkp, hkq⟩ := hdest
    obtain ⟨hxp, hxq, hxn, -⟩ := storePrimes_keygen_x s hp hq
    have hkeys := storePrimes_keygen_keysHeld s hp hq
    simp only [storePrimes, State.setPstate_x, State.openTab_x] at hxp hxq hxn hkeys ⊢
    have hregs : StoreInv (((s.setX regKP p).setX regKQ q).setX regKN (p * q)) :=
      storeInv_setX (storeInv_setX (storeInv_setX h hkp p) (by simpa using hkq) q) (by simpa using hn) _
    generalize ((s.setX regKP p).setX regKQ q).setX regKN (p * q) = keys at hxp hxq hxn hkeys hregs ⊢
    have hopenN := storeInv_openTab hregs (r := regKN) rfl (by rw [hxn]; exact (Nat.mul_pos hp.pos hq.pos).ne')
    have hopenP := storeInv_openTab hopenN (r := regKP) rfl (by rw [State.openTab_x, hxp]; exact hp.pos.ne')
    have hopenQ := storeInv_openTab hopenP (r := regKQ) rfl (by
      rw [State.openTab_x, State.openTab_x, hxq]; exact hq.pos.ne')
    exact ⟨storeInv_setPstate hopenQ (by simp) fun _ => hkeys, by simp⟩

theorem resumeBlum_keeps {s : State} (h : StoreInv s) {dest : BlumDest} (hdest : DestOk s dest)
    {f : Option Nat} (hf : FirstOk f) {c : Option Candidate} (hc : CandidateOk HalfShape c) (hp : s.pstate ≠ .signing) :
    StoreInv (resumeBlum dest f c s) ∧ RunInv (resumeBlum dest f c s) := by
  obtain ⟨hfound, hretry⟩ := searchPair_shape hf hc s.draws
  obtain ⟨p, q, hpq, e⟩ | ⟨f', c', hfc, e⟩ := resumeBlum_cases dest f c s <;> rw [e]
  · obtain ⟨hsp, hsq⟩ := hfound p q hpq
    obtain ⟨hstore, hpstate⟩ := storePrimes_keeps h hdest hp hsp hsq
    exact ⟨by simpa using hstore, (runInv_of_idle rfl).2 (by simpa using hpstate)⟩
  · obtain ⟨hf', hc'⟩ := hretry f' c' hfc
    exact ⟨h, hdest, hf', hc', hp⟩

theorem resumeSign_keeps {s : State} (h : StoreInv s) {a : Imm} (hkeys : KeysHeld s)
    (hbuf : pastBuf a.toNat s.len.toNat = false) (hsr : s.tabActive regSR = false) (hsb : s.tabActive regSB = false) :
    StoreInv (resumeSign a s) ∧ RunInv (resumeSign a s) := by
  obtain ⟨r, b, d, e⟩ | ⟨d, e⟩ := resumeSign_cases a s <;> rw [e]
  · have hsb' : (s.setX regSR r).tabActive regSB = false := by simpa using hsb
    have hkeys' := (hkeys.setX hsr r).setX hsb' b
    have hstore := storeInv_setX (storeInv_setX h hsr r) hsb' b
    simp only [storeInv_finish, storeInv_setDraws]
    exact ⟨storeInv_setPstate hstore (by simp) fun _ => hkeys', (runInv_of_idle rfl).2 (by simp)⟩
  · simp only [storeInv_keepRunning, storeInv_setDraws]
    exact ⟨storeInv_setPstate h (by simp) fun _ => hkeys, rfl, hbuf, hsr, hsb⟩

/-- A running command that works on keeps every part of the invariant but the fault record. -/
theorem coreWork_keeps {s : State} (h : StoreInv s) (hr : RunInv s) : StoreInv (coreWork s) ∧ RunInv (coreWork s) := by
  unfold coreWork
  split
  next j hj =>
    cases j with
    | mrtest rd k =>
      simp only [RunInv, hj] at hr
      obtain ⟨hrd, hx, hact, -, hp, hkeys⟩ := hr
      exact resumeMrtest_keeps h hrd hx hact hp hkeys k
    | genprime rd c =>
      simp only [RunInv, hj] at hr
      obtain ⟨hrd, hact, hc, hp⟩ := hr
      exact resumeGenprime_keeps h hrd hact hc hp
    | blum dest f c =>
      simp only [RunInv, hj] at hr
      obtain ⟨hdest, hf, hc, hp⟩ := hr
      exact resumeBlum_keeps h hdest hf hc hp
    | sign a =>
      simp only [RunInv, hj] at hr
      obtain ⟨hp, hbuf, hsr, hsb⟩ := hr
      exact resumeSign_keeps h (h.2.1 (.inr hp)) hbuf hsr hsb
  next => exact ⟨h, hr⟩

/-! ## A command that is given -/

/-- KEYFIN may be read as leaving KeysGenerated first: its writes do not meet. -/
theorem State.finalizeKeys_eq (s : State) :
    s.finalizeKeys = (((s.setPstate .finalized).closeTab regKN).closeTab regKP).closeTab regKQ := rfl

theorem storeInv_finalizeKeys {s : State} (h : StoreInv s) : StoreInv s.finalizeKeys := by
  rw [s.finalizeKeys_eq]
  have hfin : StoreInv (s.setPstate .finalized) := storeInv_setPstate h (by simp) (by simp)
  have hn := storeInv_closeTab hfin (r := regKN) (by simp)
  have hp := storeInv_closeTab hn (r := regKP) (by simp)
  exact storeInv_closeTab hp (r := regKQ) (by simp)

/-- A condition among the checks of a command that records no fault does not hold. -/
theorem check_false {checks : List (Bool × Cause)} (h : firstCause checks = none) {b : Bool} (c : Cause)
    (hmem : (b, c) ∈ checks := by simp) : b = false := (firstCause_eq_none_iff checks).1 h _ hmem

/-- What holds after every fault and after the effect holds after a guarded command. -/
theorem guarded_elim {checks : List (Bool × Cause)} {i : Instr} {s effect t : State} {P : State → Prop}
    (h : guarded checks i s effect = .next t) (hfault : ∀ c, P (takeFault c (encode i) s))
    (heffect : firstCause checks = none → P effect) : P t := by
  obtain ⟨c, -, rfl⟩ | ⟨hnone, rfl⟩ := guarded_cases h
  · exact hfault c
  · exact heffect hnone

/-- The registers, tables, BUF, PSTATE and the running command meet their parts of the invariant. -/
def WorkInv (s : State) : Prop := StoreInv s ∧ RunInv s

@[simp] theorem workInv_setCf {s : State} (c : Bool) : WorkInv (s.setCf c) ↔ WorkInv s := .rfl
@[simp] theorem workInv_setCmpr {s : State} (c : Cmpr) : WorkInv (s.setCmpr c) ↔ WorkInv s := .rfl
@[simp] theorem workInv_setTf {s : State} (b : Bool) : WorkInv (s.setTf b) ↔ WorkInv s := .rfl
@[simp] theorem workInv_setHexFlags {s : State} (w e : Bool) : WorkInv (s.setHexFlags w e) ↔ WorkInv s := .rfl
@[simp] theorem workInv_setDraws {s : State} (d : Draws) : WorkInv (s.setDraws d) ↔ WorkInv s := .rfl

/-- An effect that leaves an idle CORE idle, and PSTATE as it was. -/
theorem workInv_of_idle {s t : State} (hidle : s.run = none) (hr : RunInv s) (ht : StoreInv t) (hrun : t.run = s.run)
    (hp : t.pstate = s.pstate) : WorkInv t :=
  ⟨ht, (runInv_of_idle (hrun.trans hidle)).2 (hp ▸ (runInv_of_idle hidle).1 hr)⟩

theorem exec_keeps {i : Instr} {s t : State} (hwf : i.wellFormed = true) (h : StoreInv s) (hr : RunInv s)
    (hidle : s.run = none) (hexec : exec i s = .next t) : WorkInv t := by
  have hsign : s.pstate ≠ .signing := (runInv_of_idle hidle).1 hr
  have hfault : ∀ c, WorkInv (takeFault c (encode i) s) := fun c => ⟨h, (runInv_of_idle rfl).2 hsign⟩
  have hset : ∀ {rd : Reg} (v : Nat), s.tabActive rd = false → WorkInv (s.setX rd v) := fun v hact =>
    workInv_of_idle hidle hr (storeInv_setX h hact v) (by simp) (by simp)
  cases i with
  | add rd ra => exact guarded_elim hexec hfault fun hn => by simpa using hset _ (check_false hn .tabactive)
  | sub rd ra => exact guarded_elim hexec hfault fun hn => hset _ (check_false hn .tabactive)
  | cmp ra rb => exact guarded_elim (checks := []) hexec hfault fun _ => ⟨h, hr⟩
  | shl rd n => exact guarded_elim hexec hfault fun hn => hset _ (check_false hn .tabactive)
  | shr rd n => exact guarded_elim hexec hfault fun hn => hset _ (check_false hn .tabactive)
  | getbit rd pos => exact guarded_elim hexec hfault fun _ => ⟨h, hr⟩
  | setbit rd pos => exact guarded_elim hexec hfault fun hn => hset _ (check_false hn .tabactive)
  | clrbit rd pos => exact guarded_elim hexec hfault fun hn => hset _ (check_false hn .tabactive)
  | copy rd ra => exact guarded_elim hexec hfault fun hn => hset _ (check_false hn .tabactive)
  | ldb rd a => exact guarded_elim hexec hfault fun hn => hset _ (check_false hn .tabactive)
  | stb rd a =>
    refine guarded_elim hexec hfault fun hn => workInv_of_idle hidle hr (storeInv_memWrite h ?_) rfl rfl
    rw [bytesBe_length]
    exact (pastBuf_eq_false_iff _ _).1 (check_false hn .bufrange)
  | ldhex rd a =>
    refine guarded_elim hexec hfault fun hn => ?_
    split <;> simpa using hset _ (check_false hn .tabactive)
  | sthex rd a =>
    refine guarded_elim hexec hfault fun hn => workInv_of_idle hidle hr (storeInv_memWrite h ?_) rfl rfl
    rw [hexString_length]
    exact (pastBuf_eq_false_iff _ _).1 (check_false hn .bufrange)
  | mulhalf rd ra rb => exact guarded_elim hexec hfault fun hn => hset _ (check_false hn .tabactive)
  | rand rd => exact guarded_elim hexec hfault fun hn => by simpa using hset _ (check_false hn .tabactive)
  | tabinit rd =>
    refine guarded_elim hexec hfault fun hn => ?_
    have hwide : (!isSingle rd) = false := check_false hn .width
    have hzero : (s.x rd == 0) = false := check_false hn .zeromod
    exact workInv_of_idle hidle hr (storeInv_openTab h (by simpa using hwide) (by simpa using hzero)) (by simp) (by simp)
  | tabshut rd =>
    refine guarded_elim hexec hfault fun hn => workInv_of_idle hidle hr (storeInv_closeTab h fun hk => ?_) (by simp) (by simp)
    have hheld : ((rd == regKN || rd == regKP || rd == regKQ) && s.pstate == .keysGenerated) = false :=
      check_false hn .pstate
    simpa [hk.resolve_right hsign, and_assoc] using hheld
  | mod rd ra => exact guarded_elim hexec hfault fun hn => hset _ (check_false hn .tabactive)
  | mulmont rd ra rb rc => exact guarded_elim hexec hfault fun hn => hset _ (check_false hn .tabactive)
  | exp rd ra rb rc => exact guarded_elim hexec hfault fun hn => by simpa using hset _ (check_false hn .tabactive)
  | tdiv rd => exact guarded_elim (checks := []) hexec hfault fun _ => ⟨h, hr⟩
  | mrtest rd k =>
    refine guarded_elim hexec hfault fun hn => ?_
    have hwide : (!isSingle rd) = false := check_false hn .width
    have hsmall : decide (s.x rd < 3) = false := check_false hn .range
    have hact : s.tabActive rd = false := check_false hn .tabactive
    rw [Bool.not_eq_false'] at hwide
    rw [decide_eq_false_iff_not, not_lt] at hsmall
    refine resumeMrtest_keeps (storeInv_openTab h hwide (by omega)) hwide (by simpa using hsmall)
      (by simp [State.tabActive_openTab, hwide]) (by simpa using hsign) (fun hk => ?_) _
    obtain ⟨hkn, hkp, hkq, -⟩ := h.2.1 (.inl (by simpa using hk))
    refine ⟨?_, ?_, ?_⟩ <;> rintro rfl <;> simp_all
  | genprime rd =>
    refine guarded_elim hexec hfault fun hn => ?_
    have hwide : (!isSingle rd) = false := check_false hn .width
    exact resumeGenprime_keeps h (by simpa using hwide) (check_false hn .tabactive) (c := none) trivial hsign
  | genblum rd ra rb =>
    refine guarded_elim hexec hfault fun hn => ?_
    have hwide : (!isSingle rd || !isSingle ra || !isSingle rb) = false := check_false hn .width
    have hact : (s.tabActive rd || s.tabActive ra || s.tabActive rb) = false := check_false hn .tabactive
    have hdest : DestOk s (.genblum rd ra rb) := by
      simp only [Bool.or_eq_false_iff, Bool.not_eq_false'] at hwide hact
      refine ⟨hwf, ?_⟩
      rintro r (rfl | rfl | rfl) <;> simp_all
    exact resumeBlum_keeps h hdest (f := none) trivial (c := none) trivial hsign
  | genblumn rd =>
    refine guarded_elim hexec hfault fun hn => ?_
    have hwide : (!isSingle rd) = false := check_false hn .width
    have hdest : DestOk s (.genblumn rd) := ⟨by simpa using hwide, check_false hn .tabactive⟩
    exact resumeBlum_keeps h hdest (f := none) trivial (c := none) trivial hsign
  | gcd rd ra rb => exact guarded_elim hexec hfault fun hn => hset _ (check_false hn .tabactive)
  | keygen =>
    refine guarded_elim hexec hfault fun hn => ?_
    have hready : (s.pstate != .uninitialized && s.pstate != .finalized) = false := check_false hn .pstate
    have hact : (s.tabActive regKN || s.tabActive regKP || s.tabActive regKQ) = false := check_false hn .tabactive
    rw [← Bool.not_eq_true, notReadyForKeygen_iff, not_not] at hready
    simp only [Bool.or_eq_false_iff, and_assoc] at hact
    exact resumeBlum_keeps h (dest := .keygen) ⟨hready, hact⟩ (f := none) trivial (c := none) trivial hsign
  | sign a =>
    refine guarded_elim hexec hfault fun hn => ?_
    have hp : (s.pstate != .keysGenerated) = false := check_false hn .pstate
    have hact : (s.tabActive regSR || s.tabActive regSB) = false := check_false hn .tabactive
    rw [Bool.or_eq_false_iff] at hact
    exact resumeSign_keeps h (h.2.1 (.inl (by simpa using hp))) (check_false hn .bufrange) hact.1 hact.2
  | verify a =>
    refine guarded_elim hexec hfault fun hn => ?_
    have hp : (s.pstate != .keysGenerated) = false := check_false hn .pstate
    exact ⟨storeInv_setPstate ((storeInv_setTf _).2 h) (by simp) fun _ => h.2.1 (.inl (by simpa using hp)),
      (runInv_of_idle (by simpa using hidle)).2 (by simp)⟩
  | keyfin =>
    rw [exec_keyfin] at hexec
    refine guarded_elim hexec hfault fun _ => ⟨storeInv_finalizeKeys h, ?_⟩
    exact (runInv_of_idle (by simpa [State.finalizeKeys] using hidle)).2 (by simp [State.finalizeKeys])

/-! ## The fault record -/

/-- The cause that the checks find is a cause whose fault condition holds. -/
theorem ListsFaults.of_firstCause {low : Nat} {checks : List (Bool × Cause)} {F : Cause → Prop}
    (h : ListsFaults low checks F) {c : Cause} (hc : firstCause checks = some c) : F c := by
  induction h with
  | empty => cases hc
  | @last _ b c₀ P reads _ =>
    cases b with
    | false => cases hc
    | true => cases hc; exact ⟨rfl, reads.1 rfl⟩
  | @more _ b c₀ P _ F reads _ _ ih =>
    cases b with
    | false => exact .inr (ih hc)
    | true => cases hc; exact .inl ⟨rfl, reads.1 rfl⟩

/-- What a command does to the fault record: it takes a fault whose condition holds, and nothing else changes, or it leaves
the record as it was (R205). -/
theorem exec_faultRecord_cases {i : Instr} {s t : State} (h : exec i s = .next t) :
    (∃ c, faultCondition i s c ∧ t = takeFault c (encode i) s) ∨ t.faultRecord = s.faultRecord := by
  obtain ⟨checks, effect, hexec, hlists, hkeeps⟩ := exec_listsFaults i s
  rw [hexec] at h
  obtain ⟨c, hc, rfl⟩ | ⟨-, rfl⟩ := guarded_cases h
  · exact .inl ⟨c, hlists.of_firstCause hc, rfl⟩
  · exact .inr hkeeps

/-- No condition of a command stands for "no fault". -/
theorem faultCondition_ne_noFault {i : Instr} {s : State} {c : Cause} (h : faultCondition i s c) : c ≠ .noFault := by
  obtain ⟨_, _, -, hlists, -⟩ := exec_listsFaults i s
  rintro rfl
  exact absurd (hlists.code_gt h) (by decide)

@[simp] theorem coreWork_faultRecord (s : State) : (coreWork s).faultRecord = s.faultRecord := by
  unfold coreWork
  split
  next j _ => cases j <;> simp [resume]
  next => rfl

theorem coreWork_of_idle {s : State} (h : s.run = none) : coreWork s = s := by
  rw [coreWork, h]

theorem faultInv_takeFault {c : Cause} (hc : c ≠ .noFault) (w : Word) (s : State) : FaultInv (takeFault c w s) :=
  ⟨nofun, fun _ => ⟨hc, rfl⟩⟩

/-- The fault record of a CORE without a fault stays clear as long as nothing writes it. -/
theorem faultInv_of_faultRecord {s t : State} (h : FaultInv s) (hf : s.fault = false)
    (hrecord : t.faultRecord = s.faultRecord) : FaultInv t := by
  simp only [State.faultRecord, Prod.mk.injEq] at hrecord
  obtain ⟨hfault, hcause, hcmd⟩ := hrecord
  refine ⟨fun _ => by rw [hcause, hcmd]; exact h.1 hf, fun ht => ?_⟩
  rw [hfault, hf] at ht
  cases ht

/-- A CORE that runs a command has recorded no fault. -/
theorem FaultInv.fault_of_run {s : State} (h : FaultInv s) {j : Job} (hj : s.run = some j) : s.fault = false := by
  rw [← Bool.not_eq_true]
  intro hf
  rw [(h.2 hf).2] at hj
  cases hj

/-! ## Every step -/

theorem inv_coreWork {s : State} (h : Inv s) : Inv (coreWork s) := by
  obtain ⟨hstore, hrun, hfault⟩ := (inv_iff s).1 h
  cases hj : s.run with
  | none => rwa [coreWork_of_idle hj]
  | some j =>
    obtain ⟨hstore', hrun'⟩ := coreWork_keeps hstore hrun
    exact (inv_iff _).2
      ⟨hstore', hrun', faultInv_of_faultRecord hfault (hfault.fault_of_run hj) (coreWork_faultRecord s)⟩

theorem inv_exec {i : Instr} {s t : State} (hwf : i.wellFormed = true) (h : Inv s) (hidle : s.run = none)
    (hf : s.fault = false) (hexec : exec i s = .next t) : Inv t := by
  obtain ⟨hstore, hrun, hfault⟩ := (inv_iff s).1 h
  obtain ⟨hstore', hrun'⟩ := exec_keeps hwf hstore hrun hidle hexec
  refine (inv_iff t).2 ⟨hstore', hrun', ?_⟩
  obtain ⟨c, hc, rfl⟩ | hrecord := exec_faultRecord_cases hexec
  · exact faultInv_takeFault (faultCondition_ne_noFault hc) _ s
  · exact faultInv_of_faultRecord hfault hf hrecord

/-- An illegal word is recorded as ILLCMD (R65); a legal one is a well-formed command. -/
theorem inv_startCommand {w : Word} {s t : State} (h : Inv s) (hidle : s.run = none) (hf : s.fault = false)
    (hstart : startCommand w s = .next t) : Inv t := by
  unfold startCommand at hstart
  split at hstart
  next i hi => exact inv_exec (encodeInvertsDecode w i hi).1 h hidle hf hstart
  next e he =>
    cases hstart
    obtain ⟨hstore, hrun, -⟩ := (inv_iff s).1 h
    exact (inv_iff _).2 ⟨(storeInv_takeFault _ _).2 hstore, (runInv_of_idle rfl).2 ((runInv_of_idle hidle).1 hrun),
      faultInv_takeFault (by decide) w s⟩

theorem State.reset_tabActive (r : Reg) : State.reset.tabActive r = false := by
  unfold State.tabActive State.tab
  split
  · simp [State.reset, Table.closed]
  · rfl

/-- Settles O59: after reset no table is active, PSTATE is Uninitialized, nothing runs and nothing is recorded. -/
theorem resetMeetsTheInvariant : Obligations.ResetMeetsTheInvariant := by
  refine ⟨fun r => tableInv_of_inactive (State.reset_tabActive r), ?_, ?_, ⟨fun _ => ⟨rfl, rfl⟩, nofun⟩, ⟨rfl, rfl⟩, nofun⟩
  · rintro (h | h) <;> cases h
  · exact (runInv_of_idle rfl).2 nofun

theorem inv_resetCore (s : State) : Inv (resetCore s) := resetMeetsTheInvariant

theorem inv_hostRead {s : State} (h : Inv s) (a : Nat) : Inv (hostRead a s) := by
  unfold hostRead
  split <;> exact h

/-- The words of the window are those of BUF (R47). -/
theorem portAddr_window_lt {a k : Nat} (h : portAddr a = .window k) : k < 1024 ∧ a = 0x400 + k := by
  unfold portAddr at h
  split at h
  next hw =>
    have hk := PortAddr.window.inj h
    simp only [Config.bufSize] at hw
    omega
  next => split at h <;> cases h

theorem inv_hostWrite {a : Nat} {v : Word} {s t : State} (h : Inv s) (hw : hostWrite a v s = .next t) : Inv t := by
  unfold hostWrite at hw
  split at hw
  next =>
    split at hw <;> cases hw
    · exact inv_resetCore s
    · exact h
  next =>
    split at hw
    next => cases hw; exact h
    next hfree =>
      simp only [State.busy, Bool.or_eq_true, not_or, Bool.not_eq_true, Option.isSome_eq_false_iff, Option.isNone_iff_eq_none] at hfree
      obtain ⟨hidle, hf⟩ := hfree
      obtain ⟨hstore, hrun, hfault⟩ := (inv_iff s).1 h
      split at hw
      next => exact inv_startCommand h hidle hf hw
      next =>
        cases hw
        have hsign : s.pstate ≠ .signing := (runInv_of_idle hidle).1 hrun
        exact (inv_iff _).2 ⟨hstore, (runInv_of_idle (s := { s with len := wordField v 0 16 }) hidle).2 hsign, hfault⟩
      next k hk =>
        cases hw
        have hbuf : 4 * k + (wordBytes v).length ≤ Config.bufSize := by
          have := (portAddr_window_lt hk).1
          simp only [wordBytes, List.length_cons, List.length_nil, Config.bufSize]
          omega
        exact (inv_iff _).2
          ⟨storeInv_memWrite hstore hbuf, (runInv_of_idle (by simpa using hidle)).2
            (by simpa using (runInv_of_idle hidle).1 hrun), hfault⟩
      all_goals cases hw; exact h

theorem inv_hostAct {a : HostAction} {s t : State} (h : Inv s) (ht : hostAct a s = .next t) : Inv t := by
  cases a with
  | wait => cases ht; exact inv_coreWork h
  | read a => cases ht; exact inv_hostRead h a
  | write a v => exact inv_hostWrite h ht
  | reset => cases ht; exact inv_resetCore s

/-- Settles O60: every turn of the host keeps the invariant, and so does the CORE left alone. -/
theorem everyStepKeepsTheInvariant : Obligations.EveryStepKeepsTheInvariant := by
  intro s t h hstep
  rw [step] at hstep
  cases hagenda : s.agenda with
  | nil =>
    rw [takeTurn_nil hagenda] at hstep
    cases hstep
    exact inv_coreWork h
  | cons a rest =>
    rw [takeTurn_cons hagenda] at hstep
    exact inv_hostAct (s := { s with agenda := rest }) h hstep

end Sys2Proof.Machine
end

section
/-! PROOFS. The statements of spec/10_state.md and spec/20_memory.md about the sequencer and the host port, and those of
spec/60_exceptions.md about the fault state. -/

namespace Sys2Proof.Machine

/-! ## A turn of the host -/

theorem step_cons {s : State} {a : HostAction} {rest : List HostAction} (h : s.agenda = a :: rest) :
    step s = hostAct a { s with agenda := rest } := takeTurn_cons h

theorem busy_eq_false {s : State} (h : s.run = none) : s.busy = false := by rw [State.busy, h]; rfl

theorem busy_eq_true {s : State} (h : s.run ≠ none) : s.busy = true := Option.isSome_iff_ne_none.2 h

section Writes

variable {s : State}

theorem hostWrite_len (hr : s.run = none) (hf : s.fault = false) (v : Word) :
    hostWrite 2 v s = .next { s with len := wordField v 0 16 } := by
  have hport : portAddr 2 = .len := rfl
  simp [hostWrite, hport, busy_eq_false hr, hf]

theorem hostWrite_window (hr : s.run = none) (hf : s.fault = false) {k : Nat} (hk : k < 1024) (v : Word) :
    hostWrite (0x400 + k) v s = .next (s.memWrite (4 * k) (wordBytes v)) := by
  simp [hostWrite, portAddr_window hk, busy_eq_false hr, hf]

/-- A write to a read-only register or to a reserved address (R19, R47). -/
theorem hostWrite_noEffect {a : Nat} {p : PortAddr} (hport : portAddr a = p)
    (h : p = .status ∨ p = .fcause ∨ p = .fcmd ∨ p = .hashid ∨ p = .tabact ∨ p = .reserved) (v : Word) :
    hostWrite a v s = .next s := by
  rcases h with rfl | rfl | rfl | rfl | rfl | rfl <;> simp [hostWrite, hport]

end Writes

/-- While a command runs or a fault is recorded every write but one to CTRL is ignored (R24, R47). -/
theorem hostWrite_ignored {s : State} {a : Nat} (ha : a ≠ 5) (h : s.run ≠ none ∨ s.fault = true) (v : Word) :
    hostWrite a v s = .next s := by
  have hblocked : (s.busy || s.fault) = true := by
    rw [Bool.or_eq_true]
    exact h.imp_left busy_eq_true
  rw [hostWrite, if_neg (mt portAddr_eq_ctrl.1 ha), if_pos hblocked]

theorem hostWrite_ctrl (v : Word) (s : State) :
    hostWrite 5 v s = if v.getLsbD 0 then .next (resetCore s) else .next s := rfl

theorem hostRead_of_idle {s : State} (h : s.run = none) (a : Nat) : hostRead a s = { s with hostData := readWord a s } := by
  rw [hostRead, busy_eq_false h]
  rfl

theorem startCommand_of_legal {w : Word} {i : Instr} (h : decode w = .ok i) (s : State) : startCommand w s = exec i s := by
  rw [startCommand, h]

/-! ## Commands -/

/-- Settles O5: the write to CMD is decoded and the command runs in the same turn. -/
theorem stepRunsTheDecodedCommand : Obligations.StepRunsTheDecodedCommand := by
  refine ⟨fun s rest w i hagenda hrun hfault hw => ⟨(encodeInvertsDecode w i hw).1, ?_⟩, fun s w i hw => ?_⟩
  · rw [step_cons hagenda]
    exact (hostWrite_cmd (s := { s with agenda := rest }) w hrun hfault).trans (startCommand_of_legal hw _)
  · have hword : BitVec.ofNat 32 (w.toNat % 2 ^ 32) = w := by
      rw [Nat.mod_eq_of_lt w.isLt, BitVec.ofNat_toNat, BitVec.setWidth_eq]
    rw [State.withFetchWord, hword, step_cons (rest := s.agenda) rfl]
    exact (hostWrite_cmd (s := { s with run := none, fault := false }) w rfl rfl).trans (startCommand_of_legal hw _)

/-- Settles O6: a word that does not decode is recorded as ILLCMD. -/
theorem illegalWordRaisesIllcmd : Obligations.IllegalWordRaisesIllcmd := by
  intro s rest w e hagenda hrun hfault hw
  rw [step_cons hagenda]
  exact (hostWrite_cmd (s := { s with agenda := rest }) w hrun hfault).trans (startCommand_of_illegal hw _)

/-- Settles O7. -/
theorem hostWritesAreIgnoredWhileBusyOrFaulted : Obligations.HostWritesAreIgnoredWhileBusyOrFaulted := by
  intro s rest a v hagenda ha h
  rw [step_cons hagenda]
  exact hostWrite_ignored (s := { s with agenda := rest }) ha h v

/-! ## The fault state -/

/-- Settles O8: the state after a fault is blocked for writes and runs nothing, so reads answer as they do without it. -/
theorem faultEntryStopsTheCore : Obligations.FaultEntryStopsTheCore := by
  refine ⟨fun c w s => rfl, fun c w s rest => ⟨fun v hagenda => ?_, fun a hagenda => ?_⟩⟩
  · rw [step_cons hagenda]
    exact hostWrite_ignored (s := { takeFault c w s with agenda := rest }) (by decide) (.inr rfl) v
  · rw [step_cons hagenda]
    exact congrArg Host.Outcome.next (hostRead_of_idle (s := { takeFault c w s with agenda := rest }) rfl a)

/-- Of the turns of the host only a reset reaches a CORE in a fault: a read is answered, nothing else happens (R204). -/
theorem hostAct_of_fault {a : HostAction} {s t : State} (hfault : s.fault = true) (hrun : s.run = none)
    (hctrl : ∀ v, a = .write 5 v → v.getLsbD 0 = false) (hreset : a ≠ .reset) (h : hostAct a s = .next t) :
    t = { s with hostData := t.hostData } := by
  cases a with
  | wait =>
    rw [hostAct, coreWork_of_idle hrun] at h
    cases h
    rfl
  | read a =>
    rw [hostAct, hostRead_of_idle hrun] at h
    cases h
    rfl
  | write a v =>
    rw [hostAct] at h
    by_cases ha : a = 5
    · subst ha
      rw [hostWrite_ctrl, hctrl v rfl] at h
      cases h
      rfl
    · rw [hostWrite_ignored ha (.inr hfault)] at h
      cases h
      rfl
  | reset => exact absurd rfl hreset

/-- Settles O9: no turn but a reset reaches the CORE. -/
theorem faultIsTerminalUntilReset : Obligations.FaultIsTerminalUntilReset := by
  intro s t hfault hrun hstep hctrl hreset
  cases hagenda : s.agenda with
  | nil =>
    rw [step, takeTurn_nil hagenda, coreWork_of_idle hrun] at hstep
    cases hstep
    rw [List.tail_nil, ← hagenda]
  | cons a rest =>
    rw [step_cons hagenda] at hstep
    refine hostAct_of_fault (s := { s with agenda := rest }) hfault hrun (fun v hv => hctrl v rest (by rw [hagenda, hv]))
      (fun ha => hreset ?_) hstep
    rw [hagenda, ha]
    rfl

/-- Settles O10: a command either takes a fault, which writes the record only, or leaves the record; and work after a retry
leaves the record. -/
theorem faultingCommandHasNoOtherEffect : Obligations.FaultingCommandHasNoOtherEffect := by
  refine ⟨fun i s t hs hexec ht => ?_, fun s => congrArg Prod.fst (coreWork_faultRecord s)⟩
  obtain ⟨c, -, rfl⟩ | hrecord := exec_faultRecord_cases hexec
  · rfl
  · have hfault : t.fault = s.fault := congrArg Prod.fst hrecord
    rw [hfault, hs] at ht
    cases ht

/-! ## Every step answers -/

theorem guarded_answers (checks : List (Bool × Cause)) (i : Instr) (s effect : State) :
    ∃ t, guarded checks i s effect = .next t := by
  unfold guarded
  split <;> exact ⟨_, rfl⟩

theorem exec_answers (i : Instr) (s : State) : ∃ t, exec i s = .next t := by
  obtain ⟨checks, effect, hexec, -⟩ := exec_listsFaults i s
  rw [hexec]
  exact guarded_answers checks i s effect

theorem startCommand_answers (w : Word) (s : State) : ∃ t, startCommand w s = .next t := by
  unfold startCommand
  split
  · exact exec_answers _ s
  · exact ⟨_, rfl⟩

theorem hostWrite_answers (a : Nat) (v : Word) (s : State) : ∃ t, hostWrite a v s = .next t := by
  unfold hostWrite
  split
  · split <;> exact ⟨_, rfl⟩
  · split
    · exact ⟨_, rfl⟩
    · split
      next => exact startCommand_answers v s
      all_goals exact ⟨_, rfl⟩

theorem hostAct_answers (a : HostAction) (s : State) : ∃ t, hostAct a s = .next t := by
  cases a with
  | write a v => exact hostWrite_answers a v s
  | _ => exact ⟨_, rfl⟩

/-- Settles O12: every command is guarded, and a guarded command answers either way. -/
theorem everyStepAnswersANextState : Obligations.EveryStepAnswersANextState := by
  refine ⟨exec_answers, fun s => ?_⟩
  cases hagenda : s.agenda with
  | nil => exact ⟨_, takeTurn_nil hagenda⟩
  | cons a rest =>
    rw [step_cons hagenda]
    exact hostAct_answers a _

/-! ## What the host reads -/

theorem getLsbD_ofNat_eq {n k : Nat} (hn : n < 2 ^ 32) : (BitVec.ofNat 32 n).getLsbD k = n.testBit k := by
  rw [BitVec.getLsbD_ofNat]
  by_cases hk : k < 32
  · rw [decide_eq_true hk, Bool.true_and]
  · rw [decide_eq_false hk, Bool.false_and, Nat.testBit_lt_two_pow (hn.trans_le (Nat.pow_le_pow_right two_pos (not_lt.1 hk)))]

theorem extractLsb'_ofNat_toNat {n : Nat} (hn : n < 2 ^ 32) (lo len : Nat) :
    ((BitVec.ofNat 32 n).extractLsb' lo len).toNat = n / 2 ^ lo % 2 ^ len := by
  rw [BitVec.extractLsb'_toNat, BitVec.toNat_ofNat, Nat.mod_eq_of_lt hn, Nat.shiftRight_eq_div_pow]

theorem Cmpr.code_lt (c : Cmpr) : c.code < 4 := by cases c <;> decide

theorem PState.code_lt (p : PState) : p.code < 8 := by cases p <;> decide

/-- The number whose bits STATUS shows while no command runs (R20). -/
def State.statusNumber (s : State) : Nat :=
  2 * s.fault.toNat + 4 * s.cf.toNat + 8 * s.cmpr.code + 32 * s.tf.toNat + 64 * s.warn.toNat + 128 * s.cerr.toNat
    + 256 * s.pstate.code

theorem State.statusWord_of_idle {s : State} (h : s.run = none) : s.statusWord = BitVec.ofNat 32 s.statusNumber := by
  rw [State.statusWord, busy_eq_false h, Bool.toNat_false, zero_add, State.statusNumber]

/-- The fields of STATUS, each in its bits (R20). -/
theorem State.statusNumber_fields (s : State) :
    s.statusNumber < 2 ^ 11 ∧ s.statusNumber.testBit 0 = false ∧ s.statusNumber.testBit 1 = s.fault ∧
      s.statusNumber.testBit 2 = s.cf ∧ s.statusNumber / 2 ^ 3 % 2 ^ 2 = s.cmpr.code ∧ s.statusNumber.testBit 5 = s.tf ∧
      s.statusNumber.testBit 6 = s.warn ∧ s.statusNumber.testBit 7 = s.cerr ∧
      s.statusNumber / 2 ^ 8 % 2 ^ 3 = s.pstate.code := by
  have hcmpr := s.cmpr.code_lt
  have hpstate := s.pstate.code_lt
  have hf := s.fault.toNat_lt
  have hcf := s.cf.toNat_lt
  have htf := s.tf.toNat_lt
  have hw := s.warn.toNat_lt
  have hce := s.cerr.toNat_lt
  have hbit : ∀ (n : Nat) (b : Bool), n % 2 = b.toNat → decide (n % 2 = 1) = b := by
    rintro n (_ | _) h <;> simp [h]
  simp only [State.statusNumber, Nat.testBit_eq_decide_div_mod_eq]
  refine ⟨by omega, decide_eq_false (by omega), hbit _ _ (by omega), hbit _ _ (by omega), by omega, hbit _ _ (by omega),
    hbit _ _ (by omega), hbit _ _ (by omega), by omega⟩

theorem testBit_packFlags (flags : List Bool) (k : Nat) : (packFlags flags).testBit k = flags.getD k false := by
  induction flags generalizing k with
  | nil => simp [packFlags]
  | cons b flags ih =>
    cases k with
    | zero => cases b <;> simp [packFlags, Nat.testBit_zero, Nat.add_mod]
    | succ k =>
      rw [Nat.testBit_succ, List.getD_cons_succ, ← ih, packFlags]
      congr 1
      have := b.toNat_lt
      omega

theorem packFlags_lt (flags : List Bool) : packFlags flags < 2 ^ flags.length := by
  induction flags with
  | nil => decide
  | cons b flags ih =>
    have := b.toNat_lt
    rw [packFlags, List.length_cons, pow_succ]
    omega

/-- The flags of TABACT are those of the tables (R19). -/
theorem State.tabactWord_getLsbD (s : State) (k : Nat) :
    s.tabactWord.getLsbD k = decide (k < 24 ∧ s.tabActive (BitVec.ofNat 5 k) = true) := by
  have hlen : (s.tabs.toList.map (·.active)).length = 24 := by simp
  have hlt := packFlags_lt (s.tabs.toList.map (·.active))
  rw [hlen] at hlt
  rw [State.tabactWord, getLsbD_ofNat_eq (hlt.trans (by decide)), testBit_packFlags]
  by_cases hk : k < 24
  · have hreg : (BitVec.ofNat 5 k).toNat = k := by
      rw [BitVec.toNat_ofNat]
      exact Nat.mod_eq_of_lt (by omega)
    simp [State.tabActive, State.tab, hreg, hk, List.getD_eq_getElem?_getD]
  · simp [hk, List.getD_eq_getElem?_getD]

/-- The bytes of a window word, the lowest address in the lowest bits (R43). -/
theorem State.windowWord_extractLsb' (s : State) (k : Nat) {b : Nat} (hb : b < 4) :
    (s.windowWord k).extractLsb' (8 * b) 8 = s.byte (4 * k + b) := by
  have h0 := (s.byte (4 * k)).isLt
  have h1 := (s.byte (4 * k + 1)).isLt
  have h2 := (s.byte (4 * k + 2)).isLt
  have h3 := (s.byte (4 * k + 3)).isLt
  apply BitVec.eq_of_toNat_eq
  rw [State.windowWord, extractLsb'_ofNat_toNat (by omega)]
  interval_cases b
  · change _ = (s.byte (4 * k)).toNat
    omega
  all_goals omega

theorem readWord_window {k : Nat} (hk : k < 1024) (s : State) : readWord (0x400 + k) s = s.windowWord k := by
  rw [readWord, portAddr_window hk]

theorem readWord_reserved {a : Nat} (h : (8 ≤ a ∧ a < 0x400) ∨ 0x400 + 1024 ≤ a) (s : State) : readWord a s = 0 := by
  rw [readWord, portAddr_reserved (by omega) (by omega)]

/-- Settles O13: each address shows its register, and the read changes nothing else. -/
theorem hostReadsShowTheState : Obligations.HostReadsShowTheState := by
  intro s rest a hagenda hrun
  have hread : step s = .next { s with agenda := rest, hostData := readWord a s } := by
    rw [step_cons hagenda]
    exact congrArg Host.Outcome.next (hostRead_of_idle (s := { s with agenda := rest }) hrun a)
  refine ⟨readWord a s, hread, ?_, ?_, ?_, ?_, ?_, ?_, ?_, ?_⟩
  · rintro (rfl | rfl | h | h)
    · rfl
    · rfl
    · exact readWord_reserved (.inl h) s
    · exact readWord_reserved (.inr h) s
  · rintro rfl
    obtain ⟨hlt, h0, h1, h2, hcmpr, h5, h6, h7, hpstate⟩ := s.statusNumber_fields
    have hlt32 : s.statusNumber < 2 ^ 32 := hlt.trans (by decide)
    have hstatus : readWord 1 s = BitVec.ofNat 32 s.statusNumber := State.statusWord_of_idle hrun
    simp only [hstatus, getLsbD_ofNat_eq hlt32, extractLsb'_ofNat_toNat hlt32]
    exact ⟨h0, h1, h2, hcmpr, h5, h6, h7, hpstate, fun k hk =>
      Nat.testBit_lt_two_pow (hlt.trans_le (Nat.pow_le_pow_right two_pos hk))⟩
  · rintro rfl
    exact BitVec.toNat_setWidth_of_le (by decide)
  · rintro rfl
    have hcode : s.fcause.code < 2 ^ 32 := by cases s.fcause <;> decide
    exact (BitVec.toNat_ofNat _ _).trans (Nat.mod_eq_of_lt hcode)
  · rintro rfl; rfl
  · rintro rfl; rfl
  · rintro rfl k
    exact s.tabactWord_getLsbD k
  · rintro k rfl hk b hb
    rw [readWord_window hk, s.windowWord_extractLsb' k hb]

/-! ## Reads of a CORE that runs a command -/

theorem busyStatusWord_fields (p : PState) (any : Word) :
    (busyStatusWord p any).getLsbD 0 = true ∧ ((busyStatusWord p any).extractLsb' 8 3).toNat = p.code := by
  constructor
  · simp [busyStatusWord]
  · have hbits : (busyStatusWord p any).extractLsb' 8 3 = (BitVec.ofNat 32 (256 * p.code)).extractLsb' 8 3 := by
      simp only [busyStatusWord, BitVec.extractLsb'_or, BitVec.extractLsb'_and]
      rw [show (~~~0x701#32).extractLsb' 8 3 = 0#3 by decide, show (1#32).extractLsb' 8 3 = 0#3 by decide,
        BitVec.and_zero, BitVec.or_zero, BitVec.zero_or]
    rw [hbits]
    cases p <;> rfl

/-- Settles O14: a read while a command runs uses up one free value and answers from it. -/
theorem busyReadsShowBusyAndPstate : Obligations.BusyReadsShowBusyAndPstate := by
  intro s rest a hagenda hrun
  rw [step_cons hagenda]
  refine ⟨_, congrArg Host.Outcome.next (if_pos (busy_eq_true (s := { s with agenda := rest }) hrun)), ?_⟩
  rintro rfl
  exact busyStatusWord_fields s.pstate _

/-! ## Writes -/

theorem wordField_eq_extractLsb' (w : Word) (lo len : Nat) : wordField w lo len = w.extractLsb' lo len :=
  (extractLsb'_eq_wordField w lo len).symm

theorem wordBytes_getElem (v : Word) {b : Nat} (hb : b < (wordBytes v).length) :
    (wordBytes v)[b] = v.extractLsb' (8 * b) 8 := by
  have hb' : b < 4 := hb
  interval_cases b <;> exact wordField_eq_extractLsb' v _ 8

/-- A word is put together from its four bytes. -/
theorem word_of_bytes {u v : Word} (h : ∀ b, b < 4 → u.extractLsb' (8 * b) 8 = v.extractLsb' (8 * b) 8) : u = v := by
  refine BitVec.eq_of_getLsbD_eq fun i hi => ?_
  have hbyte := congrArg (·.getLsbD (i % 8)) (h (i / 8) (by omega))
  simpa [BitVec.getLsbD_extractLsb', Nat.mod_lt, Nat.div_add_mod] using hbyte

/-- Settles O15: the bytes of the word are stored at four rising addresses, bits 7:0 first. -/
theorem windowWordIsLittleEndian : Obligations.WindowWordIsLittleEndian := by
  intro s rest k v hk hagenda hrun hfault
  have hk' : k < 1024 := hk
  have hwrite : step s = .next (State.memWrite { s with agenda := rest } (4 * k) (wordBytes v)) := by
    rw [step_cons hagenda]
    exact hostWrite_window (s := { s with agenda := rest }) hrun hfault hk' v
  have hbytes : ∀ b, b < 4 →
      (State.memWrite { s with agenda := rest } (4 * k) (wordBytes v)).byte (4 * k + b) = v.extractLsb' (8 * b) 8 := by
    intro b hb
    have hb' : b < (wordBytes v).length := hb
    rw [State.byte_memWrite, dif_pos ⟨by omega, by omega⟩, ← wordBytes_getElem v hb']
    congr 1
    omega
  refine ⟨_, hwrite, hbytes, keepsBytes_memWrite { s with agenda := rest } (4 * k) (wordBytes v), ?_, fun _ _ => rfl,
    fun _ _ => rfl, rfl, rfl, rfl⟩
  rw [readWord_window hk']
  exact word_of_bytes fun b hb => by rw [State.windowWord_extractLsb' _ k hb, hbytes b hb]

/-- Settles O16: LEN takes the low half of the word; the other addresses have no write. -/
theorem hostWritesLenAndIgnoresTheRest : Obligations.HostWritesLenAndIgnoresTheRest := by
  intro s rest a v hrun hfault hagenda
  rw [step_cons hagenda]
  refine ⟨?_, fun ha => ?_⟩
  · rintro rfl
    rw [← wordField_eq_extractLsb']
    exact hostWrite_len (s := { s with agenda := rest }) hrun hfault v
  · simp only [Config.bufSize] at ha
    have hport : portAddr a = .reserved ∨ a = 1 ∨ a = 3 ∨ a = 4 ∨ a = 6 ∨ a = 7 := by
      by_cases h : 8 ≤ a
      · exact .inl (portAddr_reserved h (by omega))
      · omega
    rcases hport with h | rfl | rfl | rfl | rfl | rfl
    · exact hostWrite_noEffect h (by simp) v
    all_goals exact hostWrite_noEffect rfl (by decide) v

/-! ## Reset -/

theorem State.reset_x (r : Reg) : State.reset.x r = 0 := by
  unfold State.x
  split <;> simp [State.reset]

theorem atReset_reset : AtReset State.reset := by
  refine ⟨State.reset_x, State.reset_tabActive, rfl, rfl, rfl, rfl, rfl, ?_, rfl, fun _ => rfl⟩
  decide

theorem atReset_resetCore (s : State) : AtReset (resetCore s) := by
  obtain ⟨hx, htab, hstatus, hrun, hlen, hcause, hcmd, htabact, hhash, -⟩ := atReset_reset
  exact ⟨hx, htab, hstatus, hrun, hlen, hcause, hcmd, htabact, hhash, fun _ => rfl⟩

/-- Settles O17: the reset input and CTRL.SRST are one operation, which keeps the word stream and the agenda. -/
theorem resetLeavesTheResetValues : Obligations.ResetLeavesTheResetValues := by
  refine ⟨atReset_reset, fun s rest v => ⟨?_, fun hagenda hv => ?_⟩⟩
  · rintro (hagenda | ⟨hagenda, hv⟩)
    · exact ⟨_, step_cons hagenda, atReset_resetCore _, rfl, rfl⟩
    · refine ⟨resetCore { s with agenda := rest }, ?_, atReset_resetCore _, rfl, rfl⟩
      rw [step_cons hagenda, hostAct, hostWrite_ctrl, hv, if_pos rfl]
  · rw [step_cons hagenda, hostAct, hostWrite_ctrl, hv, if_neg nofun]

end Sys2Proof.Machine
end

section
/-! PROOFS. What no command does, given or going on after a retry: it writes no register whose table is active
(spec/10_state.md R15), no flag but its own (R21), and PSTATE only along the table of spec/45_esrabin_protocol.md R180. -/

namespace Sys2Proof.Machine

/-! ## The registers a command with a retry loop writes -/

/-- The registers that the two primes of a command go to. -/
def BlumDest.regs : BlumDest → List Reg
  | .genblum rd ra rb => [rd, ra, rb]
  | .genblumn rd => [rd]
  | .keygen => [regKN, regKP, regKQ]

theorem storePrimes_keepsRegs (dest : BlumDest) (p q : Nat) (s : State) :
    KeepsRegs s (storePrimes dest p q s) dest.regs := by
  intro r hr
  cases dest with
  | genblum rd ra rb =>
    simp only [BlumDest.regs, List.mem_cons, List.not_mem_nil, or_false, not_or] at hr
    obtain ⟨hd, ha, hb⟩ := hr
    simp only [storePrimes]
    rw [State.x_setX_ne _ _ hd, State.x_setX_ne _ _ hb, State.x_setX_ne _ _ ha]
  | genblumn rd => exact State.x_setX_ne s _ (by simpa [BlumDest.regs] using hr)
  | keygen =>
    simp only [BlumDest.regs, List.mem_cons, List.not_mem_nil, or_false, not_or] at hr
    obtain ⟨hn, hp, hq⟩ := hr
    simp only [storePrimes, State.setPstate_x, State.openTab_x]
    rw [State.x_setX_ne _ _ hn, State.x_setX_ne _ _ hq, State.x_setX_ne _ _ hp]

theorem resumeMrtest_keepsRegs (rd : Reg) (k : Nat) (s : State) : KeepsRegs s (resumeMrtest rd k s) [] := by
  intro r _
  obtain ⟨b, d, e⟩ | ⟨k', d, -, -, e⟩ := resumeMrtest_cases rd k s <;> simp [e]

theorem resumeGenprime_keepsRegs (rd : Reg) (c : Option Candidate) (s : State) :
    KeepsRegs s (resumeGenprime rd c s) [rd] := by
  intro r hr
  obtain ⟨p, -, e⟩ | ⟨c', -, e⟩ := resumeGenprime_cases rd c s
  · rw [e, State.finish_x, State.setDraws_x, State.x_setX_ne _ _ (by simpa using hr)]
  · simp [e]

theorem resumeBlum_keepsRegs (dest : BlumDest) (f : Option Nat) (c : Option Candidate) (s : State) :
    KeepsRegs s (resumeBlum dest f c s) dest.regs := by
  intro r hr
  obtain ⟨p, q, -, e⟩ | ⟨f', c', -, e⟩ := resumeBlum_cases dest f c s
  · rw [e, State.finish_x, State.setDraws_x, storePrimes_keepsRegs dest p q s r hr]
  · simp [e]

theorem resumeSign_keepsRegs (a : Imm) (s : State) : KeepsRegs s (resumeSign a s) [regSR, regSB] := by
  intro r hr
  simp only [List.mem_cons, List.not_mem_nil, or_false, not_or] at hr
  obtain ⟨hsr, hsb⟩ := hr
  obtain ⟨v, b, d, e⟩ | ⟨d, e⟩ := resumeSign_cases a s
  · rw [e, State.finish_x, State.setDraws_x, State.setPstate_x, State.x_setX_ne _ _ hsb, State.x_setX_ne _ _ hsr]
  · simp [e]

/-! ## Protected registers -/

/-- If the tables of the registers that may be written are not active, a register whose table is active is kept. -/
theorem KeepsRegs.of_tabActive {s t : State} {written : List Reg} (h : KeepsRegs s t written)
    (hw : ∀ q ∈ written, s.tabActive q = false) {r : Reg} (hr : s.tabActive r = true) : t.x r = s.x r :=
  h r fun hmem => by rw [hw r hmem] at hr; cases hr

theorem exec_keeps_protected {i : Instr} {s t : State} {r : Reg} (hexec : exec i s = .next t)
    (hr : s.tabActive r = true) : t.x r = s.x r := by
  have hfault : ∀ c, (takeFault c (encode i) s).x r = s.x r := fun _ => rfl
  have hset : ∀ {rd : Reg} (v : Nat), s.tabActive rd = false → (s.setX rd v).x r = s.x r := fun v hact =>
    State.x_setX_of_tabActive hact v hr
  cases i
  case add rd ra | sub rd ra | shl rd n | shr rd n | setbit rd n | clrbit rd n | copy rd ra | ldb rd a
      | mulhalf rd ra rb | rand rd | mod rd ra | mulmont rd ra rb rc | exp rd ra rb rc | gcd rd ra rb =>
    exact guarded_elim (P := fun t => t.x r = s.x r) hexec hfault fun hn => by
      simpa using hset _ (check_false hn .tabactive)
  case ldhex rd a =>
    refine guarded_elim (P := fun t => t.x r = s.x r) hexec hfault fun hn => ?_
    split <;> simpa using hset _ (check_false hn .tabactive)
  case cmp ra rb | tdiv rd =>
    exact guarded_elim (checks := []) (P := fun t => t.x r = s.x r) hexec hfault fun _ => rfl
  case getbit rd n | stb rd a | sthex rd a | tabinit rd | tabshut rd | verify a =>
    exact guarded_elim (P := fun t => t.x r = s.x r) hexec hfault fun _ => by simp
  case keyfin =>
    rw [exec_keyfin] at hexec
    exact guarded_elim (P := fun t => t.x r = s.x r) hexec hfault fun _ => by simp [State.finalizeKeys]
  case mrtest rd k =>
    refine guarded_elim (P := fun t => t.x r = s.x r) hexec hfault fun _ => ?_
    rw [resumeMrtest_keepsRegs rd _ _ r (List.not_mem_nil), State.openTab_x]
  case genprime rd =>
    exact guarded_elim (P := fun t => t.x r = s.x r) hexec hfault fun hn =>
      (resumeGenprime_keepsRegs rd none s).of_tabActive (by simpa using check_false hn .tabactive) hr
  case genblum rd ra rb =>
    refine guarded_elim (P := fun t => t.x r = s.x r) hexec hfault fun hn =>
      (resumeBlum_keepsRegs (.genblum rd ra rb) none none s).of_tabActive ?_ hr
    have hact : (s.tabActive rd || s.tabActive ra || s.tabActive rb) = false := check_false hn .tabactive
    simpa [BlumDest.regs, and_assoc] using hact
  case genblumn rd =>
    exact guarded_elim (P := fun t => t.x r = s.x r) hexec hfault fun hn =>
      (resumeBlum_keepsRegs (.genblumn rd) none none s).of_tabActive
        (by simpa [BlumDest.regs] using check_false hn .tabactive) hr
  case keygen =>
    refine guarded_elim (P := fun t => t.x r = s.x r) hexec hfault fun hn =>
      (resumeBlum_keepsRegs .keygen none none s).of_tabActive ?_ hr
    have hact : (s.tabActive regKN || s.tabActive regKP || s.tabActive regKQ) = false := check_false hn .tabactive
    simpa [BlumDest.regs, and_assoc] using hact
  case sign a =>
    refine guarded_elim (P := fun t => t.x r = s.x r) hexec hfault fun hn =>
      (resumeSign_keepsRegs a s).of_tabActive ?_ hr
    have hact : (s.tabActive regSR || s.tabActive regSB) = false := check_false hn .tabactive
    simpa using hact

/-- The registers that a running command will write have no active table (R205). -/
theorem DestOk.inactive {s : State} {dest : BlumDest} (h : DestOk s dest) : ∀ q ∈ dest.regs, s.tabActive q = false := by
  cases dest with
  | genblum rd ra rb => exact fun q hq => (h.2 q (by simpa [BlumDest.regs] using hq)).2
  | genblumn rd => simpa [BlumDest.regs] using h.2
  | keygen => simpa [BlumDest.regs] using h.2

theorem coreWork_keeps_protected {s : State} {r : Reg} (h : RunInv s) (hr : s.tabActive r = true) :
    (coreWork s).x r = s.x r := by
  unfold coreWork
  split
  next j hj =>
    cases j <;> simp only [RunInv, hj] at h
    case mrtest rd k => exact resumeMrtest_keepsRegs rd k s r List.not_mem_nil
    case genprime rd c => exact (resumeGenprime_keepsRegs rd c s).of_tabActive (by simpa using h.2.1) hr
    case blum dest f c => exact (resumeBlum_keepsRegs dest f c s).of_tabActive h.1.inactive hr
    case sign a => exact (resumeSign_keepsRegs a s).of_tabActive (by simpa using h.2.2) hr
  next => rfl

/-- Settles O55: a command that writes a register has checked its table, and one that goes on still meets that check. -/
theorem protectedRegistersAreNeverWritten : Obligations.ProtectedRegistersAreNeverWritten :=
  ⟨fun _ _ _ _ hexec hr => exec_keeps_protected hexec hr, fun s _ hinv hr =>
    coreWork_keeps_protected ((inv_iff s).1 hinv).2.1 hr⟩

/-! ## The flags each command may write -/

theorem storePrimes_flags (dest : BlumDest) (p q : Nat) (s : State) (h : dest ≠ .keygen) :
    (storePrimes dest p q s).flags = s.flags := by
  cases dest with
  | keygen => exact absurd rfl h
  | _ => simp [storePrimes]

theorem storePrimes_keygen_flags (p q : Nat) (s : State) :
    (storePrimes .keygen p q s).flags = { s.flags with pstate := .keysGenerated } := by
  simp [storePrimes]

theorem resumeMrtest_flags (rd : Reg) (k : Nat) (s : State) :
    ∃ b, (resumeMrtest rd k s).flags = { s.flags with tf := b } := by
  obtain ⟨b, d, e⟩ | ⟨k', d, -, -, e⟩ := resumeMrtest_cases rd k s <;> rw [e]
  · exact ⟨b, by simp⟩
  · exact ⟨s.tf, rfl⟩

@[simp] theorem resumeGenprime_flags (rd : Reg) (c : Option Candidate) (s : State) :
    (resumeGenprime rd c s).flags = s.flags := by
  obtain ⟨p, -, e⟩ | ⟨c', -, e⟩ := resumeGenprime_cases rd c s <;> simp [e]

theorem resumeBlum_flags {dest : BlumDest} (h : dest ≠ .keygen) (f : Option Nat) (c : Option Candidate) (s : State) :
    (resumeBlum dest f c s).flags = s.flags := by
  obtain ⟨p, q, -, e⟩ | ⟨f', c', -, e⟩ := resumeBlum_cases dest f c s <;> simp [e, storePrimes_flags _ _ _ _ h]

/-- KEYGEN changes PSTATE at its end only. -/
theorem resumeBlum_keygen_flags (f : Option Nat) (c : Option Candidate) (s : State) :
    ((resumeBlum .keygen f c s).flags = { s.flags with pstate := .keysGenerated } ∧ (resumeBlum .keygen f c s).run = none) ∨
      (resumeBlum .keygen f c s).flags = s.flags := by
  obtain ⟨p, q, -, e⟩ | ⟨f', c', -, e⟩ := resumeBlum_cases .keygen f c s <;> rw [e]
  · exact .inl ⟨by simp [storePrimes_keygen_flags], rfl⟩
  · exact .inr (by simp)

/-- SIGN ends in KeysGenerated or stays in Signing. -/
theorem resumeSign_flags (a : Imm) (s : State) :
    ((resumeSign a s).flags = { s.flags with pstate := .keysGenerated } ∧ (resumeSign a s).run = none) ∨
      (resumeSign a s).flags = { s.flags with pstate := .signing } := by
  obtain ⟨v, b, d, e⟩ | ⟨d, e⟩ := resumeSign_cases a s <;> rw [e]
  · exact .inl ⟨by simp, rfl⟩
  · exact .inr (by simp)

/-- How a command may change the flags (R21). -/
def MayWriteFlags : Instr → Flags → Flags → Prop
  | .add _ _, f, g => ∃ c, g = { f with cf := c }
  | .cmp _ _, f, g => ∃ c, g = { f with cmpr := c }
  | .getbit _ _, f, g | .tdiv _, f, g | .mrtest _ _, f, g => ∃ b, g = { f with tf := b }
  | .ldhex _ _, f, g => ∃ w e, g = { f with warn := w, cerr := e }
  | .verify _, f, g => ∃ b p, g = { f with tf := b, pstate := p }
  | .keygen, f, g | .sign _, f, g | .keyfin, f, g => ∃ p, g = { f with pstate := p }
  | _, f, g => g = f

theorem MayWriteFlags.refl (i : Instr) (f : Flags) : MayWriteFlags i f f := by
  cases i
  case ldhex | verify => exact ⟨_, _, rfl⟩
  case add | cmp | getbit | tdiv | mrtest | keygen | sign | keyfin => exact ⟨_, rfl⟩
  all_goals rfl

theorem exec_mayWriteFlags {i : Instr} {s t : State} (hexec : exec i s = .next t) : MayWriteFlags i s.flags t.flags := by
  have hfault : ∀ c, MayWriteFlags i s.flags (takeFault c (encode i) s).flags := fun c => .refl i s.flags
  cases i
  case cmp ra rb =>
    exact guarded_elim (checks := []) (P := fun t => MayWriteFlags _ s.flags t.flags) hexec hfault fun _ => ⟨_, rfl⟩
  case tdiv rd =>
    exact guarded_elim (checks := []) (P := fun t => MayWriteFlags _ s.flags t.flags) hexec hfault fun _ => ⟨_, rfl⟩
  case keyfin =>
    rw [exec_keyfin] at hexec
    exact guarded_elim (P := fun t => MayWriteFlags _ s.flags t.flags) hexec hfault fun _ => ⟨_, s.finalizeKeys_flags⟩
  all_goals refine guarded_elim (P := fun t => MayWriteFlags _ s.flags t.flags) hexec hfault fun hn => ?_
  case mrtest rd k =>
    obtain ⟨b, hb⟩ := resumeMrtest_flags rd k.toNat (s.openTab rd)
    exact ⟨b, by rw [hb, State.openTab_flags]⟩
  case add => exact ⟨_, by rw [State.setCf_flags, State.setX_flags]⟩
  case getbit => exact ⟨_, rfl⟩
  case ldhex =>
    split
    · exact ⟨_, _, by rw [State.setHexFlags_flags, State.setX_flags]⟩
    · exact ⟨_, _, by rw [State.setHexFlags_flags, State.setDraws_flags, State.setX_flags]⟩
  case verify => exact ⟨_, _, by rw [State.setPstate_flags, State.setTf_flags]⟩
  case keygen =>
    obtain ⟨h, -⟩ | h := resumeBlum_keygen_flags none none s
    · exact ⟨_, h⟩
    · exact ⟨s.pstate, h⟩
  case sign a => obtain ⟨h, -⟩ | h := resumeSign_flags a s <;> exact ⟨_, h⟩
  case genblum | genblumn => exact resumeBlum_flags (by simp) none none s
  case tabinit | tabshut => exact State.setTab_flags _ _ _
  case stb | sthex => rfl
  case genprime rd => exact resumeGenprime_flags rd none s
  all_goals exact State.setX_flags _ _ _

/-- What one command leaves of the flags it may not write, field by field (R21). -/
theorem MayWriteFlags.keeps {i : Instr} {f g : Flags} (h : MayWriteFlags i f g) :
    ((∀ rd ra, i ≠ .add rd ra) → g.cf = f.cf) ∧ ((∀ ra rb, i ≠ .cmp ra rb) → g.cmpr = f.cmpr) ∧
      ((∀ rd n, i ≠ .getbit rd n ∧ i ≠ .tdiv rd ∧ i ≠ .mrtest rd n ∧ i ≠ .verify n) → g.tf = f.tf) ∧
      ((∀ rd n, i ≠ .ldhex rd n) → g.warn = f.warn ∧ g.cerr = f.cerr) ∧
      ((∀ n, i ≠ .keygen ∧ i ≠ .sign n ∧ i ≠ .verify n ∧ i ≠ .keyfin) → g.pstate = f.pstate) := by
  cases i
  case ldhex | verify => obtain ⟨_, _, rfl⟩ := h; simp
  case add | cmp | getbit | tdiv | mrtest | keygen | sign | keyfin => obtain ⟨_, rfl⟩ := h; simp
  all_goals cases h; simp

theorem coreWork_of_run {s : State} {j : Job} (h : s.run = some j) : coreWork s = resume j s := by
  rw [coreWork, h]

/-- How work after a retry may change the flags. -/
theorem coreWork_flags (s : State) :
    (∃ b p, (coreWork s).flags = { s.flags with tf := b, pstate := p }) ∧
      ((∀ rd k, s.run ≠ some (.mrtest rd k)) → (coreWork s).tf = s.tf) ∧
      ((∀ f c, s.run ≠ some (.blum .keygen f c)) → (∀ a, s.run ≠ some (.sign a)) → (coreWork s).pstate = s.pstate) := by
  cases hj : s.run with
  | none => rw [coreWork_of_idle hj]; exact ⟨⟨s.tf, s.pstate, rfl⟩, fun _ => rfl, fun _ _ => rfl⟩
  | some j =>
    rw [coreWork_of_run hj]
    have key : ∀ {t : State} {b : Bool} {p : PState}, t.flags = { s.flags with tf := b, pstate := p } →
        t.tf = b ∧ t.pstate = p := fun h => ⟨congrArg Flags.tf h, congrArg Flags.pstate h⟩
    cases j with
    | mrtest rd k =>
      obtain ⟨b, hb⟩ := resumeMrtest_flags rd k s
      exact ⟨⟨b, s.pstate, hb⟩, fun h => absurd rfl (h rd k), fun _ _ => (key hb).2⟩
    | genprime rd c =>
      have hb := resumeGenprime_flags rd c s
      exact ⟨⟨s.tf, s.pstate, hb⟩, fun _ => (key hb).1, fun _ _ => (key hb).2⟩
    | blum dest f c =>
      by_cases hdest : dest = .keygen
      · subst hdest
        obtain ⟨hb, -⟩ | hb := resumeBlum_keygen_flags f c s
        · exact ⟨⟨s.tf, _, hb⟩, fun _ => (key hb).1, fun h _ => absurd rfl (h f c)⟩
        · exact ⟨⟨s.tf, s.pstate, hb⟩, fun _ => (key hb).1, fun h _ => absurd rfl (h f c)⟩
      · have hb := resumeBlum_flags hdest f c s
        exact ⟨⟨s.tf, s.pstate, hb⟩, fun _ => (key hb).1, fun _ _ => (key hb).2⟩
    | sign a =>
      obtain ⟨hb, -⟩ | hb := resumeSign_flags a s <;>
        exact ⟨⟨s.tf, _, hb⟩, fun _ => (key hb).1, fun _ h => absurd rfl (h a)⟩

/-- Settles O56: each command leaves the flags that are not its own, at once and after a retry. -/
theorem flagsAreWrittenOnlyByTheirCommands : Obligations.FlagsAreWrittenOnlyByTheirCommands := by
  refine ⟨fun i s t hexec => (exec_mayWriteFlags hexec).keeps, fun s => ?_⟩
  obtain ⟨⟨b, p, hflags⟩, htf, hpstate⟩ := coreWork_flags s
  exact ⟨congrArg Flags.cf hflags, congrArg Flags.cmpr hflags, congrArg Flags.warn hflags, congrArg Flags.cerr hflags,
    htf, hpstate⟩

/-! ## The protocol state -/

/-- What the commands of the protocol do to PSTATE, when they change it (R180). -/
theorem exec_pstate_cases {i : Instr} {s t : State} (hexec : exec i s = .next t) (hne : t.pstate ≠ s.pstate) :
    (i = .keygen ∧ (s.pstate = .uninitialized ∨ s.pstate = .finalized) ∧ t.pstate = .keysGenerated) ∨
      ((∃ a, i = .sign a) ∧ s.pstate = .keysGenerated ∧ t.pstate = .signing) ∨
      (i = .keyfin ∧ s.pstate = .keysGenerated ∧ t.pstate = .finalized) := by
  obtain ⟨-, -, -, -, hkeep⟩ := (exec_mayWriteFlags hexec).keeps
  have hpstate : ∀ {u : State} {p : PState}, u.flags = { s.flags with pstate := p } → u.pstate = p :=
    fun h => congrArg Flags.pstate h
  by_cases hi : ∀ n, i ≠ .keygen ∧ i ≠ .sign n ∧ i ≠ .verify n ∧ i ≠ .keyfin
  · exact absurd (hkeep hi) hne
  cases i
  case keygen =>
    obtain ⟨c, -, rfl⟩ | ⟨hn, rfl⟩ := guarded_cases hexec
    · exact absurd rfl hne
    · have hready : (s.pstate != .uninitialized && s.pstate != .finalized) = false := check_false hn .pstate
      rw [← Bool.not_eq_true, notReadyForKeygen_iff, not_not] at hready
      obtain ⟨h, -⟩ | h := resumeBlum_keygen_flags none none s
      · exact .inl ⟨rfl, hready, hpstate h⟩
      · exact absurd (hpstate h) hne
  case sign a =>
    obtain ⟨c, -, rfl⟩ | ⟨hn, rfl⟩ := guarded_cases hexec
    · exact absurd rfl hne
    · have hp : (s.pstate != .keysGenerated) = false := check_false hn .pstate
      rw [bne_eq_false_iff_eq] at hp
      obtain ⟨h, -⟩ | h := resumeSign_flags a s
      · exact absurd ((hpstate h).trans hp.symm) hne
      · exact .inr (.inl ⟨⟨a, rfl⟩, hp, hpstate h⟩)
  case verify a =>
    obtain ⟨c, -, rfl⟩ | ⟨hn, rfl⟩ := guarded_cases hexec
    · exact absurd rfl hne
    · have hp : (s.pstate != .keysGenerated) = false := check_false hn .pstate
      rw [bne_eq_false_iff_eq] at hp
      exact absurd hp.symm hne
  case keyfin =>
    rw [exec_keyfin] at hexec
    obtain ⟨c, -, rfl⟩ | ⟨hn, rfl⟩ := guarded_cases hexec
    · exact absurd rfl hne
    · have hp : (s.pstate != .keysGenerated) = false := check_false hn .pstate
      exact .inr (.inr ⟨rfl, bne_eq_false_iff_eq.1 hp, hpstate s.finalizeKeys_flags⟩)
  all_goals exact absurd (fun n => by simp) hi

/-- Settles O58: of the commands that write PSTATE each goes one way of the table. -/
theorem protocolStateFollowsItsTable : Obligations.ProtocolStateFollowsItsTable := by
  refine ⟨fun i s t hexec hne => exec_pstate_cases hexec hne, fun s hinv hne => ?_⟩
  have hrun := ((inv_iff s).1 hinv).2.1
  obtain ⟨-, -, hkeep⟩ := coreWork_flags s
  by_cases hkeygen : ∃ f c, s.run = some (.blum .keygen f c)
  · obtain ⟨f, c, hj⟩ := hkeygen
    rw [coreWork_of_run hj] at hne ⊢
    obtain ⟨h, hidle⟩ | h := resumeBlum_keygen_flags f c s
    · exact ⟨congrArg Flags.pstate h, hidle, .inl ⟨f, c, hj⟩⟩
    · exact absurd (congrArg Flags.pstate h) hne
  by_cases hsign : ∃ a, s.run = some (.sign a)
  · obtain ⟨a, hj⟩ := hsign
    simp only [RunInv, hj] at hrun
    obtain ⟨hp, -⟩ := hrun
    rw [coreWork_of_run hj] at hne ⊢
    obtain ⟨h, hidle⟩ | h := resumeSign_flags a s
    · exact ⟨congrArg Flags.pstate h, hidle, .inr ⟨a, hj⟩⟩
    · exact absurd ((congrArg Flags.pstate h).trans hp.symm) hne
  · exact absurd (hkeep (fun f c hj => hkeygen ⟨f, c, hj⟩) fun a hj => hsign ⟨a, hj⟩) hne

end Sys2Proof.Machine
end

section
/-! PROOFS. The flags CF, CMPR, TF, WARN and CERR are never inputs (spec/10_state.md R21): two runs from states that differ
in them only are compared update by update. -/

namespace Sys2Proof.Machine

/-- The five flags that no command reads, written. -/
def State.withFlags (s : State) (f : Flags) : State :=
  { s with cf := f.cf, cmpr := f.cmpr, tf := f.tf, warn := f.warn, cerr := f.cerr }

/-- States agree but for the five flags when one is the other with these flags written. -/
theorem agreeButFlags_iff {s s' : State} : AgreeButFlags s s' ↔ ∃ f, s' = s.withFlags f :=
  ⟨fun h => ⟨s'.flags, h.symm⟩, fun ⟨_, h⟩ => h ▸ rfl⟩

/-- Two runs, from `s` to `t` and from `s'` to `t'`, in which no flag has been an input so far. -/
def Alike (s s' t t' : State) : Prop := AgreeButFlags t t' ∧ FlagsWrittenAlike s s' t t'

theorem Alike.start {s s' : State} (h : AgreeButFlags s s') : Alike s s' s s' :=
  ⟨h, .inr ⟨rfl, rfl⟩, .inr ⟨rfl, rfl⟩, .inr ⟨rfl, rfl⟩, .inr ⟨rfl, rfl⟩, .inr ⟨rfl, rfl⟩⟩

/-! ## The updates -/

section Updates

variable {s s' t t' : State}

theorem Alike.setX (h : Alike s s' t t') (r : Reg) (v : Nat) : Alike s s' (t.setX r v) (t'.setX r v) := by
  obtain ⟨ha, hf⟩ := h
  obtain ⟨f, rfl⟩ := agreeButFlags_iff.1 ha
  refine ⟨?_, by simpa [FlagsWrittenAlike] using hf⟩
  unfold State.setX
  split <;> rfl

theorem Alike.setTab (h : Alike s s' t t') (r : Reg) (tab : Table) : Alike s s' (t.setTab r tab) (t'.setTab r tab) := by
  obtain ⟨ha, hf⟩ := h
  obtain ⟨f, rfl⟩ := agreeButFlags_iff.1 ha
  refine ⟨?_, by simpa [FlagsWrittenAlike] using hf⟩
  unfold State.setTab
  split <;> rfl

theorem Alike.openTab (h : Alike s s' t t') (r : Reg) : Alike s s' (t.openTab r) (t'.openTab r) := by
  have hx : t'.x r = t.x r := by obtain ⟨f, rfl⟩ := agreeButFlags_iff.1 h.1; rfl
  rw [State.openTab, State.openTab, hx]
  exact h.setTab r _

theorem Alike.closeTab (h : Alike s s' t t') (r : Reg) : Alike s s' (t.closeTab r) (t'.closeTab r) := by
  have htab : t'.tab r = t.tab r := by obtain ⟨f, rfl⟩ := agreeButFlags_iff.1 h.1; rfl
  rw [State.closeTab, State.closeTab, htab]
  exact h.setTab r _

theorem Alike.memWrite (h : Alike s s' t t') (a : Nat) (bytes : List Byte) :
    Alike s s' (t.memWrite a bytes) (t'.memWrite a bytes) := by
  obtain ⟨f, rfl⟩ := agreeButFlags_iff.1 h.1
  exact ⟨rfl, h.2⟩

theorem Alike.setDraws (h : Alike s s' t t') (d : Draws) : Alike s s' (t.setDraws d) (t'.setDraws d) := by
  obtain ⟨f, rfl⟩ := agreeButFlags_iff.1 h.1
  exact ⟨rfl, h.2⟩

theorem Alike.setPstate (h : Alike s s' t t') (p : PState) : Alike s s' (t.setPstate p) (t'.setPstate p) := by
  obtain ⟨f, rfl⟩ := agreeButFlags_iff.1 h.1
  exact ⟨rfl, h.2⟩

theorem Alike.keepRunning (h : Alike s s' t t') (j : Job) : Alike s s' (t.keepRunning j) (t'.keepRunning j) := by
  obtain ⟨f, rfl⟩ := agreeButFlags_iff.1 h.1
  exact ⟨rfl, h.2⟩

theorem Alike.finish (h : Alike s s' t t') : Alike s s' t.finish t'.finish := by
  obtain ⟨f, rfl⟩ := agreeButFlags_iff.1 h.1
  exact ⟨rfl, h.2⟩

theorem Alike.takeFault (h : Alike s s' t t') (c : Cause) (w : Word) : Alike s s' (takeFault c w t) (takeFault c w t') := by
  obtain ⟨f, rfl⟩ := agreeButFlags_iff.1 h.1
  exact ⟨rfl, h.2⟩

/-! A flag that is written is written with the same value in both runs. -/

theorem Alike.setCf (h : Alike s s' t t') (c : Bool) : Alike s s' (t.setCf c) (t'.setCf c) := by
  obtain ⟨ha, -, hcmpr, htf, hwarn, hcerr⟩ := h
  obtain ⟨f, rfl⟩ := agreeButFlags_iff.1 ha
  exact ⟨rfl, .inl rfl, hcmpr, htf, hwarn, hcerr⟩

theorem Alike.setCmpr (h : Alike s s' t t') (c : Cmpr) : Alike s s' (t.setCmpr c) (t'.setCmpr c) := by
  obtain ⟨ha, hcf, -, htf, hwarn, hcerr⟩ := h
  obtain ⟨f, rfl⟩ := agreeButFlags_iff.1 ha
  exact ⟨rfl, hcf, .inl rfl, htf, hwarn, hcerr⟩

theorem Alike.setTf (h : Alike s s' t t') (b : Bool) : Alike s s' (t.setTf b) (t'.setTf b) := by
  obtain ⟨ha, hcf, hcmpr, -, hwarn, hcerr⟩ := h
  obtain ⟨f, rfl⟩ := agreeButFlags_iff.1 ha
  exact ⟨rfl, hcf, hcmpr, .inl rfl, hwarn, hcerr⟩

theorem Alike.setHexFlags (h : Alike s s' t t') (w e : Bool) : Alike s s' (t.setHexFlags w e) (t'.setHexFlags w e) := by
  obtain ⟨ha, hcf, hcmpr, htf, -, -⟩ := h
  obtain ⟨f, rfl⟩ := agreeButFlags_iff.1 ha
  exact ⟨rfl, hcf, hcmpr, htf, .inl rfl, .inl rfl⟩

end Updates

/-! ## A command that works on -/

theorem Alike.storePrimes {s s' t t' : State} (h : Alike s s' t t') (dest : BlumDest) (p q : Nat) :
    Alike s s' (storePrimes dest p q t) (storePrimes dest p q t') := by
  cases dest with
  | genblum rd ra rb => exact ((h.setX ra p).setX rb q).setX rd _
  | genblumn rd => exact h.setX rd _
  | keygen =>
    exact ((((((h.setX regKP p).setX regKQ q).setX regKN (p * q)).openTab regKN).openTab regKP).openTab regKQ).setPstate _

section Resume

variable {s s' t t' : State}

theorem Alike.resumeMrtest (h : Alike s s' t t') (rd : Reg) (k : Nat) :
    Alike s s' (resumeMrtest rd k t) (resumeMrtest rd k t') := by
  have hx : t'.x rd = t.x rd ∧ t'.draws = t.draws := by obtain ⟨f, rfl⟩ := agreeButFlags_iff.1 h.1; exact ⟨rfl, rfl⟩
  unfold Machine.resumeMrtest
  rw [hx.1, hx.2]
  dsimp only
  split
  · exact (((h.closeTab rd).setTf true).setDraws _).finish
  · exact (((h.closeTab rd).setTf false).setDraws _).finish
  · exact (h.setDraws _).keepRunning _

theorem Alike.resumeGenprime (h : Alike s s' t t') (rd : Reg) (c : Option Candidate) :
    Alike s s' (resumeGenprime rd c t) (resumeGenprime rd c t') := by
  have hd : t'.draws = t.draws := by obtain ⟨f, rfl⟩ := agreeButFlags_iff.1 h.1; rfl
  unfold Machine.resumeGenprime
  rw [hd]
  dsimp only
  split
  · exact ((h.setX rd _).setDraws _).finish
  · exact (h.setDraws _).keepRunning _

theorem Alike.resumeBlum (h : Alike s s' t t') (dest : BlumDest) (f : Option Nat) (c : Option Candidate) :
    Alike s s' (resumeBlum dest f c t) (resumeBlum dest f c t') := by
  have hd : t'.draws = t.draws := by obtain ⟨f, rfl⟩ := agreeButFlags_iff.1 h.1; rfl
  unfold Machine.resumeBlum
  rw [hd]
  dsimp only
  split
  · exact ((h.storePrimes dest _ _).setDraws _).finish
  · exact (h.setDraws _).keepRunning _

theorem memRead_withFlags (s : State) (f : Flags) (a n : Nat) : (s.withFlags f).memRead a n = s.memRead a n := by
  induction n generalizing a with
  | zero => rfl
  | succ n ih => simp only [State.memRead, ih]; rfl

theorem hashInt_withFlags (s : State) (f : Flags) (a : Imm) (r : Nat) : hashInt (s.withFlags f) a r = hashInt s a r := by
  rw [hashInt, memRead_withFlags]
  rfl

theorem Alike.resumeSign (h : Alike s s' t t') (a : Imm) : Alike s s' (resumeSign a t) (resumeSign a t') := by
  have hread : t'.x regKP = t.x regKP ∧ t'.x regKQ = t.x regKQ ∧ t'.tab regKP = t.tab regKP ∧
      t'.tab regKQ = t.tab regKQ ∧ t'.draws = t.draws ∧ ∀ r, hashInt t' a r = hashInt t a r := by
    obtain ⟨f, rfl⟩ := agreeButFlags_iff.1 h.1
    exact ⟨rfl, rfl, rfl, rfl, rfl, hashInt_withFlags t f a⟩
  obtain ⟨hp, hq, htp, htq, hd, hhash⟩ := hread
  unfold Machine.resumeSign
  simp only [hp, hq, htp, htq, hd, hhash]
  split
  · exact ((((h.setX regSR _).setX regSB _).setPstate _).setDraws _).finish
  · exact ((h.setPstate _).setDraws _).keepRunning _

end Resume

theorem alike_coreWork {s s' : State} (h : AgreeButFlags s s') : Alike s s' (coreWork s) (coreWork s') := by
  have hrun : s'.run = s.run := by obtain ⟨f, rfl⟩ := agreeButFlags_iff.1 h; rfl
  have hs := Alike.start h
  cases hj : s.run with
  | none => rw [coreWork_of_idle hj, coreWork_of_idle (hrun.trans hj)]; exact hs
  | some j =>
    rw [coreWork_of_run hj, coreWork_of_run (hrun.trans hj)]
    cases j with
    | mrtest rd k => exact hs.resumeMrtest rd k
    | genprime rd c => exact hs.resumeGenprime rd c
    | blum dest f c => exact hs.resumeBlum dest f c
    | sign a => exact hs.resumeSign a

/-! ## A command that is given -/

/-- Two runs of a guarded command with the same checks. -/
theorem alike_guarded {checks : List (Bool × Cause)} {i : Instr} {s s' e e' t t' : State} (h : AgreeButFlags s s')
    (he : Alike s s' e e') (ht : guarded checks i s e = .next t) (ht' : guarded checks i s' e' = .next t') :
    Alike s s' t t' := by
  cases hc : firstCause checks with
  | some c =>
    rw [guarded_of_some hc] at ht ht'
    cases ht
    cases ht'
    exact (Alike.start h).takeFault _ _
  | none =>
    rw [guarded_of_none hc] at ht ht'
    cases ht
    cases ht'
    exact he

theorem alike_exec {i : Instr} {s t t' : State} {f : Flags} (ht : exec i s = .next t)
    (ht' : exec i (s.withFlags f) = .next t') : Alike s (s.withFlags f) t t' := by
  have h : AgreeButFlags s (s.withFlags f) := rfl
  have hs := Alike.start h
  cases i
  case add rd ra => exact alike_guarded h ((hs.setX rd _).setCf _) ht ht'
  case sub rd ra | shl rd n | shr rd n | setbit rd n | clrbit rd n | copy rd ra | mulhalf rd ra rb | mod rd ra
      | mulmont rd ra rb rc | gcd rd ra rb =>
    exact alike_guarded h (hs.setX rd _) ht ht'
  case rand rd | exp rd ra rb rc => exact alike_guarded h ((hs.setX rd _).setDraws _) ht ht'
  case cmp ra rb => exact alike_guarded (checks := []) (i := .cmp ra rb) h (hs.setCmpr _) ht ht'
  case tdiv rd => exact alike_guarded (checks := []) (i := .tdiv rd) h (hs.setTf _) ht ht'
  case getbit rd n => exact alike_guarded h (hs.setTf _) ht ht'
  case ldb rd a =>
    rw [exec, execLdb, memRead_withFlags] at ht'
    exact alike_guarded h (hs.setX rd _) ht ht'
  case stb rd a | sthex rd a => exact alike_guarded h (hs.memWrite _ _) ht ht'
  case ldhex rd a =>
    rw [exec, execLdhex, memRead_withFlags] at ht'
    refine alike_guarded h ?_ ht ht'
    dsimp only [State.withFlags]
    split
    · exact (hs.setX rd _).setHexFlags _ _
    · exact ((hs.setX rd _).setDraws _).setHexFlags _ _
  case tabinit rd => exact alike_guarded h (hs.openTab rd) ht ht'
  case tabshut rd => exact alike_guarded h (hs.closeTab rd) ht ht'
  case mrtest rd k => exact alike_guarded h ((hs.openTab rd).resumeMrtest rd _) ht ht'
  case genprime rd => exact alike_guarded h (hs.resumeGenprime rd none) ht ht'
  case genblum rd ra rb => exact alike_guarded h (hs.resumeBlum (.genblum rd ra rb) none none) ht ht'
  case genblumn rd => exact alike_guarded h (hs.resumeBlum (.genblumn rd) none none) ht ht'
  case keygen => exact alike_guarded h (hs.resumeBlum .keygen none none) ht ht'
  case sign a => exact alike_guarded h (hs.resumeSign a) ht ht'
  case verify a =>
    rw [exec, execVerify, hashInt_withFlags] at ht'
    exact alike_guarded h ((hs.setTf _).setPstate _) ht ht'
  case keyfin =>
    exact alike_guarded h ((((hs.closeTab regKN).closeTab regKP).closeTab regKQ).setPstate _) ht ht'

/-- Settles O57: both runs go through the same updates with the same values. -/
theorem flagsAreNeverInputs : Obligations.FlagsAreNeverInputs := by
  refine ⟨fun i s s' t t' h ht ht' => ?_, fun s s' h => alike_coreWork h⟩
  obtain ⟨f, rfl⟩ := agreeButFlags_iff.1 h
  exact alike_exec ht ht'

end Sys2Proof.Machine
end

section
/-! PROOFS. The statements of spec/10_state.md R12 and spec/41_fixedwidth_integer.md about the blocks of a register, CMP,
COPY and RAND (R83, R89, R95, R96). -/

namespace Sys2Proof.Machine

/-! ## The blocks of a register -/

/-- Block `j` of a value cut into blocks of 30 bits, and the last block, which has all the rest. -/
theorem splitBlocks_getD (n w v : Nat) {j : Nat} (hj : j ≤ n) (hv : v < 2 ^ (Config.blockBits * n + w))
    (hw : w ≤ Config.blockBits) :
    (splitBlocks (List.replicate n Config.blockBits ++ [w]) v).getD j 0 =
      v / 2 ^ (Config.blockBits * j) % 2 ^ Config.blockBits := by
  induction n generalizing v j with
  | zero =>
    obtain rfl : j = 0 := Nat.le_zero.1 hj
    rw [mul_zero, zero_add] at hv
    simp [splitBlocks, Nat.mod_eq_of_lt hv, Nat.mod_eq_of_lt (hv.trans_le (Nat.pow_le_pow_right two_pos hw))]
  | succ n ih =>
    rw [two_pow_widths_succ] at hv
    cases j with
    | zero => simp [splitBlocks, List.replicate_succ]
    | succ j =>
      rw [List.replicate_succ, List.cons_append, splitBlocks, List.getD_cons_succ,
        ih _ (Nat.le_of_succ_le_succ hj) (Nat.div_lt_of_lt_mul hv), Nat.div_div_eq_div_mul, ← pow_add, mul_add_one, add_comm]

theorem State.blocks_getD (s : State) (r : Reg) {j : Nat} (hj : j < blockCount (regLen r)) :
    (s.blocks r).getD j 0 = s.x r / 2 ^ (Config.blockBits * j) % 2 ^ Config.blockBits :=
  splitBlocks_getD _ _ _ (Nat.le_pred_of_lt hj) (by rw [blockBits_mul_add_lastBlockBits]; exact s.x_lt r)
    (lastBlockBits_lt _).le

/-- The last block has only as many bits as are left. -/
theorem State.last_block_lt (s : State) (r : Reg) :
    (s.blocks r).getD (blockCount (regLen r) - 1) 0 < 2 ^ lastBlockBits (regLen r) := by
  rw [s.blocks_getD r (Nat.sub_lt (blockCount_regLen_pos r) one_pos)]
  refine (Nat.mod_le _ _).trans_lt (Nat.div_lt_of_lt_mul ?_)
  rw [← pow_add, blockBits_mul_add_lastBlockBits]
  exact s.x_lt r

/-- Settles O19: cutting a value into blocks keeps its bits, block after block. -/
theorem blocksRepresentTheValue : Obligations.BlocksRepresentTheValue := by
  intro s r
  have hcount : blockCount (regLen r) = if r.toNat < 24 then 35 else 69 := by rw [regLen_eq]; split <;> rfl
  have hlast : lastBlockBits (regLen r) = if r.toNat < 24 then 4 else 8 := by rw [regLen_eq]; split <;> rfl
  rw [s.blocks_length, ← hcount]
  refine ⟨rfl, s.ofBlocks_blocks r, fun j hj => s.blocks_getD r hj, (s.last_block_lt r).trans_eq ?_⟩
  rw [hlast]
  split <;> rfl

/-! ## CMP -/

/-- The comparison of two integers, as CMPR shows it. -/
def orderOf (a b : Nat) : Cmpr := if a = b then .equal else if a > b then .greater else .less

theorem ofBlocks_append (as bs : List Nat) :
    ofBlocks (as ++ bs) = ofBlocks as + 2 ^ (Config.blockBits * as.length) * ofBlocks bs := by
  induction as with
  | nil => simp [ofBlocks]
  | cons a as ih =>
    rw [List.cons_append, ofBlocks, ofBlocks, ih, List.length_cons, mul_add_one, pow_add]
    ring

theorem ofBlocks_lt {bs : List Nat} (h : ∀ b ∈ bs, b < 2 ^ Config.blockBits) :
    ofBlocks bs < 2 ^ (Config.blockBits * bs.length) := by
  induction bs with
  | nil => simp [ofBlocks]
  | cons b bs ih =>
    obtain ⟨hb, hbs⟩ := List.forall_mem_cons.1 h
    have := ih hbs
    rw [ofBlocks, List.length_cons, mul_add_one, add_comm (Config.blockBits * _), pow_add]
    calc b + 2 ^ Config.blockBits * ofBlocks bs < 2 ^ Config.blockBits * (ofBlocks bs + 1) := by rw [mul_add_one]; omega
      _ ≤ _ := Nat.mul_le_mul_left _ this

theorem ofBlocks_eq_zero_iff (bs : List Nat) : ofBlocks bs = 0 ↔ bs.any (· != 0) = false := by
  induction bs with
  | nil => simp [ofBlocks]
  | cons b bs ih => simp [ofBlocks, ih, Nat.add_eq_zero_iff]

/-- A block more at the top decides before the ones below it. -/
theorem orderOf_top {a b m : Nat} (ha : a < m) (hb : b < m) (x y : Nat) :
    orderOf (a + m * x) (b + m * y) = if x > y then .greater else if x < y then .less else orderOf a b := by
  obtain hxy | rfl | hxy := Nat.lt_trichotomy x y
  · have : a + m * x < b + m * y := by nlinarith [Nat.mul_le_mul_left m hxy]
    simp [orderOf, hxy, this.ne, this.not_gt, hxy.not_gt]
  · simp [orderOf]
  · have : b + m * y < a + m * x := by nlinarith [Nat.mul_le_mul_left m hxy]
    simp [orderOf, hxy, this, this.ne']

/-- The comparison from the most significant block down is the comparison of the values. -/
theorem compareDown_reverse {as bs : List Nat} (hlen : as.length = bs.length) (ha : ∀ a ∈ as, a < 2 ^ Config.blockBits)
    (hb : ∀ b ∈ bs, b < 2 ^ Config.blockBits) : compareDown as.reverse bs.reverse = orderOf (ofBlocks as) (ofBlocks bs) := by
  induction as using List.reverseRecOn generalizing bs with
  | nil =>
    obtain rfl : bs = [] := List.eq_nil_of_length_eq_zero hlen.symm
    rfl
  | append_singleton as a ih =>
    obtain rfl | ⟨bs, b, rfl⟩ := List.eq_nil_or_concat bs
    · simp at hlen
    have hlen' : as.length = bs.length := by simpa using hlen
    have ha' : ∀ a ∈ as, a < 2 ^ Config.blockBits := fun x hx => ha x (List.mem_append_left _ hx)
    have hb' : ∀ b ∈ bs, b < 2 ^ Config.blockBits := fun x hx => hb x (by simp [hx])
    have hbound := hlen' ▸ ofBlocks_lt hb'
    rw [List.concat_eq_append, List.reverse_append, List.reverse_append, ofBlocks_append, ofBlocks_append, ← hlen',
      orderOf_top (ofBlocks_lt ha') hbound]
    simp [compareDown, ofBlocks, ih hlen' ha' hb']

/-- A value is its blocks below a place and those from there on. -/
theorem ofBlocks_take_drop (bs : List Nat) (n : Nat) :
    ofBlocks bs = ofBlocks (bs.take n) + 2 ^ (Config.blockBits * (bs.take n).length) * ofBlocks (bs.drop n) := by
  rw [← ofBlocks_append, List.take_append_drop]

/-- A block that is not 0 above the other operand's top makes the value the greater one. -/
theorem ofBlocks_lt_of_high {as bs : List Nat} (hb : ∀ b ∈ bs, b < 2 ^ Config.blockBits)
    (h : (as.drop bs.length).any (· != 0) = true) : ofBlocks bs < ofBlocks as := by
  have hlen : (as.take bs.length).length = bs.length := by
    refine List.length_take_of_le (not_lt.1 fun hlt => ?_)
    rw [List.drop_eq_nil_of_le hlt.le] at h
    cases h
  have hhigh : ofBlocks (as.drop bs.length) ≠ 0 := by
    rw [Ne, ofBlocks_eq_zero_iff, h]
    nofun
  rw [ofBlocks_take_drop as bs.length, hlen]
  exact (ofBlocks_lt hb).trans_le ((Nat.le_mul_of_pos_right _ (Nat.pos_of_ne_zero hhigh)).trans (Nat.le_add_left _ _))

/-- With nothing above the shorter operand the values are those of the overlapping blocks. -/
theorem ofBlocks_take_min {as bs : List Nat} (h : (as.drop bs.length).any (· != 0) = false) :
    ofBlocks (as.take (min as.length bs.length)) = ofBlocks as := by
  rw [← ofBlocks_eq_zero_iff] at h
  conv_rhs => rw [ofBlocks_take_drop as bs.length, h, mul_zero, add_zero]
  rw [List.take_eq_take_min, Nat.min_comm as.length, Nat.min_assoc, Nat.min_self]
  conv_rhs => rw [List.take_eq_take_min]

/-- The block comparison of R83 is the comparison of the values. -/
theorem compareBlocks_eq {as bs : List Nat} (ha : ∀ a ∈ as, a < 2 ^ Config.blockBits)
    (hb : ∀ b ∈ bs, b < 2 ^ Config.blockBits) : compareBlocks as bs = orderOf (ofBlocks as) (ofBlocks bs) := by
  unfold compareBlocks
  split
  next h =>
    have hlt := ofBlocks_lt_of_high hb h
    simp [orderOf, hlt, hlt.ne']
  next h =>
    split
    next h' =>
      have hlt := ofBlocks_lt_of_high ha h'
      simp [orderOf, hlt.ne, hlt.not_gt]
    next h' =>
      rw [Bool.not_eq_true] at h h'
      have hmin := ofBlocks_take_min h'
      rw [Nat.min_comm] at hmin
      dsimp only
      rw [compareDown_reverse (by simp) (fun a h => ha a (List.mem_of_mem_take h)) (fun b h => hb b (List.mem_of_mem_take h)),
        ofBlocks_take_min h, hmin]

/-- Settles O22: the comparison of the block buffers is that of the integers. -/
theorem cmpComparesTheIntegers : Obligations.CmpComparesTheIntegers := by
  intro ra rb s
  refine guarded_completes (checks := []) rfl (i := .cmp ra rb) (s := s) ⟨?_, onlyRegs_setCmpr s _⟩
  rw [State.setCmpr_flags, compareBlocks_eq (s.blocks_lt ra) (s.blocks_lt rb), s.ofBlocks_blocks, s.ofBlocks_blocks]
  rfl

/-! ## COPY -/

/-- The low blocks of one buffer over another. -/
theorem getD_take_append_drop {src : List Nat} (dst : List Nat) {n : Nat} (hn : n ≤ src.length) (k : Nat) :
    (src.take n ++ dst.drop n).getD k 0 = if k < n then src.getD k 0 else dst.getD k 0 := by
  have hlen : (src.take n).length = n := List.length_take_of_le hn
  split
  next h =>
    rw [List.getD_append _ _ _ _ (by omega)]
    simp [List.getD_eq_getElem?_getD, h]
  next h =>
    rw [List.getD_append_right _ _ _ _ (by omega), hlen]
    simp [List.getD_eq_getElem?_getD, List.getElem?_drop, Nat.add_sub_cancel' (not_lt.1 h)]

/-- The bits COPY leaves: the source's in the overlapping blocks, the destination's own above them. -/
theorem State.testBit_copyBlocks (s : State) (rd ra : Reg) (j : Nat) :
    (ofBlocks (copyBlocks (regLen rd) (s.blocks rd) (s.blocks ra)) % 2 ^ regLen rd).testBit j =
      ((if j / Config.blockBits < min (blockCount (regLen rd)) (blockCount (regLen ra)) then (s.x ra).testBit j
        else (s.x rd).testBit j) && decide (j < regLen rd)) := by
  generalize hn : min (blockCount (regLen rd)) (blockCount (regLen ra)) = n
  have hcopy : copyBlocks (regLen rd) (s.blocks rd) (s.blocks ra) =
      maskLast (regLen rd) ((s.blocks ra).take n ++ (s.blocks rd).drop n) := by
    rw [copyBlocks, s.blocks_length, s.blocks_length, hn]
  have hlen : ((s.blocks ra).take n ++ (s.blocks rd).drop n).length = blockCount (regLen rd) := by
    rw [List.length_append, List.length_take, List.length_drop, s.blocks_length, s.blocks_length]
    omega
  have hlt : ∀ b ∈ (s.blocks ra).take n ++ (s.blocks rd).drop n, b < 2 ^ Config.blockBits := fun b hb =>
    (List.mem_append.1 hb).elim (fun h => s.blocks_lt ra b (List.mem_of_mem_take h)) fun h =>
      s.blocks_lt rd b (List.mem_of_mem_drop h)
  have hmask : ∀ b ∈ maskLast (regLen rd) ((s.blocks ra).take n ++ (s.blocks rd).drop n), b < 2 ^ Config.blockBits := by
    rw [maskLast_eq_changeBlock]
    exact changeBlock_lt (fun b hb => Nat.and_le_left.trans_lt hb) _ hlt
  have hna : n ≤ (s.blocks ra).length := by rw [s.blocks_length]; omega
  rw [hcopy, Nat.testBit_mod_two_pow, testBit_ofBlocks hmask, bitOfBlocks_maskLast rd hlen, bitOfBlocks,
    getD_take_append_drop _ hna, ← s.bitOfBlocks_blocks ra, ← s.bitOfBlocks_blocks rd, bitOfBlocks, bitOfBlocks]
  split <;> simp [Bool.and_comm]

/-- The length of a register tells the number of its blocks. -/
theorem blockCount_single {r : Reg} (h : r.toNat < 24) : regLen r = 1024 ∧ blockCount (regLen r) = 35 := by
  have hlen : regLen r = 1024 := regLen_of_single ((isSingle_iff r).2 h)
  exact ⟨hlen, by rw [hlen]; rfl⟩

theorem blockCount_double {r : Reg} (h : 24 ≤ r.toNat) : regLen r = 2048 ∧ blockCount (regLen r) = 69 := by
  have hlen : regLen r = 2048 := regLen_of_double (decide_eq_false (not_lt.2 h))
  exact ⟨hlen, by rw [hlen]; rfl⟩

/-- The value COPY writes, in its three cases of lengths (R89). -/
theorem State.copyBlocks_cases (s : State) (rd ra : Reg) :
    let v := ofBlocks (copyBlocks (regLen rd) (s.blocks rd) (s.blocks ra)) % 2 ^ regLen rd
    (regLen rd = regLen ra → v = s.x ra) ∧ (rd.toNat < 24 → 24 ≤ ra.toNat → v = s.x ra % 2 ^ 1024) ∧
      (24 ≤ rd.toNat → ra.toNat < 24 → v = s.x ra + s.x rd / 2 ^ 1050 * 2 ^ 1050) := by
  refine ⟨fun hlen => ?_, fun hrd hra => ?_, fun hrd hra => ?_⟩ <;>
    refine Nat.eq_of_testBit_eq fun j => ?_ <;>
    rw [s.testBit_copyBlocks rd ra j]
  · have hx := s.testBit_x_and_lt ra j
    have hW := blockBits_mul_add_lastBlockBits rd
    have hlast := lastBlockBits_lt (regLen rd)
    have hpos := blockCount_regLen_pos rd
    rw [← hlen, Nat.min_self] at *
    by_cases hj : j < regLen rd
    · rw [if_pos (by simp only [Config.blockBits] at *; omega), hx]
    · rw [decide_eq_false hj, Bool.and_false] at hx ⊢
      exact hx
  · obtain ⟨hlen, hcount⟩ := blockCount_single hrd
    obtain ⟨-, hcount'⟩ := blockCount_double hra
    rw [hcount, hcount', hlen, Nat.testBit_mod_two_pow]
    by_cases hj : j < 1024
    · rw [if_pos (by simp only [Config.blockBits]; omega), Bool.and_comm]
    · simp [hj]
  · obtain ⟨hlen, hcount⟩ := blockCount_double hrd
    obtain ⟨hlen', hcount'⟩ := blockCount_single hra
    have hbound : s.x ra < 2 ^ 1050 := (hlen' ▸ s.x_lt ra).trans (Nat.pow_lt_pow_right one_lt_two (by decide))
    have hx := s.testBit_x_and_lt rd j
    rw [hcount, hcount', hlen] at *
    rw [add_comm, mul_comm, Nat.testBit_two_pow_mul_add _ hbound]
    by_cases hj : j < 1050
    · rw [if_pos (by simp only [Config.blockBits]; omega), if_pos hj, decide_eq_true (by omega), Bool.and_true]
    · rw [if_neg (by simp only [Config.blockBits]; omega), if_neg hj, Nat.testBit_div_two_pow, hx,
        Nat.sub_add_cancel (not_lt.1 hj)]

/-- Settles O26: which bits of the source cover the destination, read as a value. -/
theorem copyMovesTheOverlappingBlocks : Obligations.CopyMovesTheOverlappingBlocks := by
  refine fun rd ra s => ⟨fun hact => guarded_first hact, fun hact => ?_⟩
  obtain ⟨heq, hcut, hkeep⟩ := s.copyBlocks_cases rd ra
  refine guarded_completes (firstCause_one_none hact _) ?_
  rw [State.x_setX_self]
  exact ⟨heq, hcut, hkeep, s.setX_flags rd _, onlyRegs_setX s rd _⟩

/-! ## RAND -/

@[simp] theorem Draws.nth_word (d : Draws) : d.word.1 = d.nth 0 := by
  unfold Draws.word Draws.nth
  split <;> simp_all

/-- A word drawn is taken off the front of the stream. -/
@[simp] theorem Draws.word_nth (d : Draws) (j : Nat) : d.word.2.nth j = d.nth (j + 1) := by
  obtain ⟨queue, rngPos, freePos⟩ := d
  cases queue with
  | nil => simp [Draws.word, Draws.nth, Nat.add_right_comm, Nat.add_assoc]
  | cons w ws => simp [Draws.word, Draws.nth, Nat.add_right_comm, Nat.add_assoc]

/-- Block `j` is word `j` of the stream, masked, and the stream goes on after one word for each block (R96). -/
theorem fillBlocks_words (ws : List Nat) (d : Draws) :
    (∀ j w, ws[j]? = some w → (fillBlocks ws d).1.getD j 0 = (d.nth j).toNat % 2 ^ w) ∧
      ∀ k, (fillBlocks ws d).2.nth k = d.nth (ws.length + k) := by
  induction ws generalizing d with
  | nil => simp [fillBlocks]
  | cons w ws ih =>
    obtain ⟨hblocks, hrest⟩ := ih d.word.2
    refine ⟨fun j w' hj => ?_, fun k => ?_⟩
    · cases j with
      | zero =>
        obtain rfl : w = w' := by simpa using hj
        simp [fillBlocks]
      | succ j =>
        rw [fillBlocks, List.getD_cons_succ, hblocks j w' (by simpa using hj), Draws.word_nth]
    · rw [fillBlocks, hrest, Draws.word_nth, List.length_cons]
      congr 1
      omega

/-- The digits of a block sequence in base `2^30` are its blocks. -/
theorem ofBlocks_digit {bs : List Nat} (h : ∀ b ∈ bs, b < 2 ^ Config.blockBits) (j : Nat) :
    ofBlocks bs / 2 ^ (Config.blockBits * j) % 2 ^ Config.blockBits = bs.getD j 0 := by
  induction bs generalizing j with
  | nil => simp [ofBlocks]
  | cons b bs ih =>
    obtain ⟨hb, hbs⟩ := List.forall_mem_cons.1 h
    cases j with
    | zero => rw [ofBlocks, mul_zero, pow_zero, Nat.div_one, Nat.add_mul_mod_self_left, Nat.mod_eq_of_lt hb, List.getD_cons_zero]
    | succ j =>
      rw [ofBlocks, List.getD_cons_succ, mul_add_one, add_comm (Config.blockBits * j), pow_add, ← Nat.div_div_eq_div_mul,
        Nat.add_mul_div_left _ _ (Nat.two_pow_pos _), Nat.div_eq_of_lt hb, zero_add, ih hbs]

theorem blockWidths_le (len : Nat) : ∀ w ∈ blockWidths len, w ≤ Config.blockBits := by
  intro w hw
  simp only [blockWidths, List.mem_append, List.mem_replicate, List.mem_singleton] at hw
  obtain ⟨-, rfl⟩ | rfl := hw
  · exact le_rfl
  · exact (lastBlockBits_lt len).le

theorem fillBlocks_lt {ws : List Nat} (hw : ∀ w ∈ ws, w ≤ Config.blockBits) (d : Draws) :
    ∀ b ∈ (fillBlocks ws d).1, b < 2 ^ Config.blockBits := by
  induction ws generalizing d with
  | nil => simp [fillBlocks]
  | cons w ws ih =>
    obtain ⟨hw, hws⟩ := List.forall_mem_cons.1 hw
    rw [fillBlocks]
    exact List.forall_mem_cons.2
      ⟨(Nat.mod_lt _ (Nat.two_pow_pos w)).trans_le (Nat.pow_le_pow_right two_pos hw), ih hws _⟩

theorem blockWidths_length (r : Reg) : (blockWidths (regLen r)).length = blockCount (regLen r) := by
  have := blockCount_regLen_pos r
  simp only [blockWidths, List.length_append, List.length_replicate, List.length_singleton]
  omega

/-- The value RAND draws for a register fits it. -/
theorem randFill_regLen_lt (r : Reg) (d : Draws) : (randFill (regLen r) d).1 < 2 ^ regLen r := by
  have h := fillBlocks_value_lt (blockCount (regLen r) - 1) (lastBlockBits (regLen r)) d
  rwa [blockBits_mul_add_lastBlockBits] at h

/-- The blocks of a drawn value are the masked words of the stream (R96). -/
theorem randFill_blocks (r : Reg) (d : Draws) :
    (∀ j, j < blockCount (regLen r) - 1 →
      (randFill (regLen r) d).1 / 2 ^ (Config.blockBits * j) % 2 ^ Config.blockBits =
        (d.nth j).toNat % 2 ^ Config.blockBits) ∧
      (randFill (regLen r) d).1 / 2 ^ (Config.blockBits * (blockCount (regLen r) - 1)) =
        (d.nth (blockCount (regLen r) - 1)).toNat % 2 ^ lastBlockBits (regLen r) := by
  have hlt := fillBlocks_lt (blockWidths_le (regLen r)) d
  have hwords := (fillBlocks_words (blockWidths (regLen r)) d).1
  constructor
  · intro j hj
    rw [randFill, ofBlocks_digit hlt]
    refine hwords j _ ?_
    rw [blockWidths, List.getElem?_append_left (by simpa using hj), List.getElem?_replicate, if_pos hj]
  · have hsmall : (randFill (regLen r) d).1 / 2 ^ (Config.blockBits * (blockCount (regLen r) - 1)) < 2 ^ Config.blockBits := by
      refine Nat.div_lt_of_lt_mul ?_
      rw [← pow_add]
      refine (randFill_regLen_lt r d).trans_le (Nat.pow_le_pow_right two_pos ?_)
      have := blockBits_mul_add_lastBlockBits r
      have := lastBlockBits_lt (regLen r)
      omega
    rw [← Nat.mod_eq_of_lt hsmall, randFill, ofBlocks_digit hlt]
    refine hwords _ _ ?_
    rw [blockWidths, List.getElem?_append_right (by simp)]
    simp

/-- Settles O28: the register takes the filled value whole, and the stream goes on behind the words of its blocks. -/
theorem randFillsBlocksFromTheStream : Obligations.RandFillsBlocksFromTheStream := by
  refine fun rd s => ⟨fun hact => guarded_first hact, fun hact => guarded_completes (firstCause_one_none hact _) ?_⟩
  obtain ⟨hblocks, hlast⟩ := randFill_blocks rd s.draws
  obtain ⟨-, hpos, hfree⟩ := fillBlocks_spec (blockWidths (regLen rd)) s.draws
  have hrest := (fillBlocks_words (blockWidths (regLen rd)) s.draws).2
  rw [blockWidths_length] at hpos hrest
  have hx : ((s.setX rd (randFill (regLen rd) s.draws).1).setDraws (randFill (regLen rd) s.draws).2).x rd =
      (randFill (regLen rd) s.draws).1 := by
    rw [State.setDraws_x, State.x_setX_self, Nat.mod_eq_of_lt (randFill_regLen_lt rd s.draws)]
  rw [hx]
  refine ⟨hblocks, hlast, hpos, hfree, hrest, by simp, fun q hq => ?_, ?_⟩
  · rw [State.setDraws_x, State.x_setX_ne _ _ (by simpa using hq)]
  · simp [KeepsTabs, KeepsBytes, KeepsControl]

end Sys2Proof.Machine
end

section
/-! PROOFS. The statements of spec/41_fixedwidth_integer.md about hex strings, LDHEX and STHEX, and about loading back what
was stored (R91 to R93, R97). -/

namespace Sys2Proof.Machine

/-! ## Hex digits -/

/-- The decoder of a digit reads just the characters of R92. -/
theorem hexDigit_eq_some_iff (b : Byte) (v : Nat) : hexDigit b = some v ↔ IsHexDigit b v := by
  unfold hexDigit IsHexDigit
  dsimp only
  split
  · simp only [Option.some.injEq]; omega
  · split
    · simp only [Option.some.injEq]; omega
    · split
      · simp only [Option.some.injEq]; omega
      · simp only [reduceCtorEq, false_iff]; omega

theorem IsHexDigit.lt {b : Byte} {v : Nat} (h : IsHexDigit b v) : v < 16 := by
  unfold IsHexDigit at h
  omega

/-- The ASCII code of an upper-case digit (R93). -/
theorem toNat_hexChar {d : Nat} (hd : d < 16) : (hexChar d).toNat = if d < 10 then 0x30 + d else 0x37 + d := by
  unfold hexChar
  split <;> rw [BitVec.toNat_ofNat] <;> omega

theorem isHexDigit_hexChar {d : Nat} (hd : d < 16) : IsHexDigit (hexChar d) d := by
  have h := toNat_hexChar hd
  unfold IsHexDigit
  split at h <;> omega

theorem hexDigits_cons (b : Byte) (bs : List Byte) :
    hexDigits (b :: bs) = match hexDigit b, hexDigits bs with
      | some d, some ds => some (d :: ds)
      | _, _ => none := rfl

/-- A string is decoded exactly when each of its characters is. -/
theorem hexDigits_eq_some_iff (bs : List Byte) (ds : List Nat) :
    hexDigits bs = some ds ↔ List.Forall₂ IsHexDigit bs ds := by
  induction bs generalizing ds with
  | nil => simp [hexDigits, eq_comm]
  | cons b bs ih =>
    rw [hexDigits_cons]
    constructor
    · intro h
      split at h
      next d ds' hd hds =>
        cases h
        exact .cons ((hexDigit_eq_some_iff b d).1 hd) ((ih ds').1 hds)
      next => cases h
    · rintro (_ | ⟨hd, hds⟩)
      rw [(hexDigit_eq_some_iff b _).2 hd, (ih _).2 hds]

/-- A string of hex digits has a decoding. -/
theorem exists_hexDigits {bs : List Byte} (h : ∀ b ∈ bs, ∃ v, IsHexDigit b v) : ∃ ds, hexDigits bs = some ds := by
  induction bs with
  | nil => exact ⟨[], rfl⟩
  | cons b bs ih =>
    obtain ⟨⟨v, hv⟩, hbs⟩ := List.forall_mem_cons.1 h
    obtain ⟨ds, hds⟩ := ih hbs
    exact ⟨v :: ds, (hexDigits_eq_some_iff _ _).2 (.cons hv ((hexDigits_eq_some_iff _ _).1 hds))⟩

/-- A string with a character that is no hex digit has none. -/
theorem hexDigits_eq_none {bs : List Byte} {b : Byte} (hb : b ∈ bs) (h : ∀ v, ¬ IsHexDigit b v) : hexDigits bs = none := by
  cases hds : hexDigits bs with
  | none => rfl
  | some ds =>
    exfalso
    obtain ⟨k, hk, rfl⟩ := List.getElem_of_mem hb
    have hall := (hexDigits_eq_some_iff bs ds).1 hds
    exact h _ (hall.get hk (hall.length_eq ▸ hk))

/-! ## The value of hex digits -/

theorem hexValue_append_singleton (ds : List Nat) (d : Nat) : hexValue (ds ++ [d]) = hexValue ds * 16 + d := by
  simp [hexValue]

theorem hexValue_lt {ds : List Nat} (h : ∀ d ∈ ds, d < 16) : hexValue ds < 16 ^ ds.length := by
  induction ds using List.reverseRecOn with
  | nil => decide
  | append_singleton ds d ih =>
    have hd : d < 16 := h d (by simp)
    have := ih fun x hx => h x (List.mem_append_left _ hx)
    rw [hexValue_append_singleton, List.length_append, List.length_singleton, pow_succ]
    omega

/-- The base-16 digits of the value are the digits, the most significant first (R42). -/
theorem hexValue_digit {ds : List Nat} (h : ∀ d ∈ ds, d < 16) {k : Nat} (hk : k < ds.length) :
    hexValue ds / 16 ^ (ds.length - 1 - k) % 16 = ds[k] := by
  induction ds using List.reverseRecOn with
  | nil => simp at hk
  | append_singleton ds d ih =>
    have hd : d < 16 := h d (by simp)
    rw [List.length_append, List.length_singleton] at hk
    rw [hexValue_append_singleton, List.length_append, List.length_singleton, Nat.add_sub_cancel]
    obtain hlt | rfl := Nat.lt_succ_iff_lt_or_eq.1 hk
    · rw [show ds.length - k = ds.length - 1 - k + 1 by omega, pow_succ', ← Nat.div_div_eq_div_mul,
        show (hexValue ds * 16 + d) / 16 = hexValue ds by omega, List.getElem_append_left hlt]
      exact ih (fun x hx => h x (List.mem_append_left _ hx)) hlt
    · rw [Nat.sub_self, pow_zero, Nat.div_one, List.getElem_append_right le_rfl]
      simp only [Nat.sub_self, List.getElem_cons_zero]
      omega

theorem pow_regLen_div_four (r : Reg) : 16 ^ (regLen r / 4) = 2 ^ regLen r := by
  rw [show (16 : Nat) = 2 ^ 4 from rfl, ← pow_mul]
  obtain h | h := regLen_cases r <;> rw [h]

/-- What a string of no more digits than the register has loads. -/
theorem hexLoad_of_fits {bs : List Byte} {ds : List Nat} {trunc : HexTrunc} {len : Nat} (h : hexDigits bs = some ds)
    (hne : ds ≠ []) (hfits : ds.length ≤ len / 4) : hexLoad trunc len bs = some (hexValue ds, false) := by
  cases ds with
  | nil => exact absurd rfl hne
  | cons d ds =>
    rw [hexLoad, h]
    exact if_neg (not_lt.2 hfits)

/-- What a longer string loads. -/
theorem hexLoad_of_long {bs : List Byte} {ds : List Nat} {trunc : HexTrunc} {len : Nat} (h : hexDigits bs = some ds)
    (hlong : len / 4 < ds.length) :
    hexLoad trunc len bs = some (hexValue (hexKeep trunc (len / 4) ds), true) := by
  cases ds with
  | nil => simp at hlong
  | cons d ds =>
    rw [hexLoad, h]
    exact if_pos hlong

theorem hexLoad_of_bad {bs : List Byte} (h : hexDigits bs = none ∨ bs = []) (trunc : HexTrunc) (len : Nat) :
    hexLoad trunc len bs = none := by
  obtain h | rfl := h
  · rw [hexLoad, h]
  · rfl

/-- How many digits of an over-long string of `n` are skipped before the `m` that are kept (R92). -/
def hexSkip (trunc : HexTrunc) (n m : Nat) : Nat :=
  match trunc with
  | .keepLow => n - m
  | .keepHigh => 0

theorem hexSkip_add_le (trunc : HexTrunc) {n m : Nat} (h : m ≤ n) : hexSkip trunc n m + m ≤ n := by
  cases trunc <;> simp only [hexSkip] <;> omega

/-- The digits that are kept, in their order. -/
theorem hexKeep_eq (trunc : HexTrunc) {m : Nat} {ds : List Nat} (hm : m ≤ ds.length) :
    hexKeep trunc m ds = (ds.drop (hexSkip trunc ds.length m)).take m := by
  cases trunc with
  | keepLow =>
    have hlen : (ds.drop (ds.length - m)).length ≤ m := by rw [List.length_drop]; omega
    exact (List.take_of_length_le hlen).symm
  | keepHigh => rfl

/-! ## LDHEX -/

/-- What LDHEX leaves when no fault condition holds (R92). -/
def ldhexEffect (rd : Reg) (bytes : List Byte) (s : State) : State :=
  match hexLoad Config.hexTrunc (regLen rd) bytes with
  | some (v, cut) => (s.setX rd v).setHexFlags cut false
  | none =>
    ((s.setX rd (s.draws.unspecified (regLen rd)).1).setDraws (s.draws.unspecified (regLen rd)).2).setHexFlags false true

theorem exec_ldhex (rd : Reg) (a : Imm) (s : State) :
    exec (.ldhex rd a) s =
      guarded [(pastBuf a.toNat s.len.toNat, .bufrange), (s.tabActive rd, .tabactive)] (.ldhex rd a) s
        (ldhexEffect rd (s.memRead a.toNat s.len.toNat) s) := rfl

theorem ldhexEffect_of_some {rd : Reg} {bytes : List Byte} {v : Nat} {cut : Bool}
    (h : hexLoad Config.hexTrunc (regLen rd) bytes = some (v, cut)) (s : State) :
    ldhexEffect rd bytes s = (s.setX rd v).setHexFlags cut false := by
  rw [ldhexEffect, h]

theorem ldhexEffect_of_none {rd : Reg} {bytes : List Byte} (h : hexLoad Config.hexTrunc (regLen rd) bytes = none)
    (s : State) :
    ldhexEffect rd bytes s =
      ((s.setX rd (s.draws.unspecified (regLen rd)).1).setDraws (s.draws.unspecified (regLen rd)).2).setHexFlags false true := by
  rw [ldhexEffect, h]

/-- Whatever the string, LDHEX writes its register, WARN and CERR, and at most a draw. -/
theorem ldhexEffect_frame (rd : Reg) (bytes : List Byte) (s : State) :
    KeepsRegs s (ldhexEffect rd bytes s) [rd] ∧ KeepsTabs s (ldhexEffect rd bytes s) [] ∧
      KeepsBytes s (ldhexEffect rd bytes s) 0 0 ∧ KeepsControl s (ldhexEffect rd bytes s) := by
  have hx : ∀ (v : Nat) (q : Reg), q ∉ [rd] → (s.setX rd v).x q = s.x q := fun v q hq =>
    s.x_setX_ne v (by simpa using hq)
  cases h : hexLoad Config.hexTrunc (regLen rd) bytes with
  | some l =>
    rw [ldhexEffect_of_some h]
    exact ⟨hx _, by simp [KeepsTabs, KeepsBytes, KeepsControl]⟩
  | none =>
    rw [ldhexEffect_of_none h]
    exact ⟨hx _, by simp [KeepsTabs, KeepsBytes, KeepsControl]⟩

/-- A register that takes the value of at most `L/4` hex digits holds these digits, and no more. -/
theorem x_setX_hexValue {s : State} {rd : Reg} {bytes : List Byte} {ds : List Nat}
    (h : List.Forall₂ IsHexDigit bytes ds) (hfits : bytes.length ≤ regLen rd / 4) :
    (∀ k (hk : k < bytes.length),
      IsHexDigit bytes[k] ((s.setX rd (hexValue ds)).x rd / 16 ^ (bytes.length - 1 - k) % 16)) ∧
      (s.setX rd (hexValue ds)).x rd < 16 ^ bytes.length := by
  have hlen := h.length_eq
  have hdigit : ∀ d ∈ ds, d < 16 := by
    intro d hd
    obtain ⟨k, hk, rfl⟩ := List.getElem_of_mem hd
    exact (h.get (hlen.symm ▸ hk) hk).lt
  have hlt : hexValue ds < 16 ^ bytes.length := hlen ▸ hexValue_lt hdigit
  have hx : (s.setX rd (hexValue ds)).x rd = hexValue ds := by
    rw [s.x_setX_self, Nat.mod_eq_of_lt]
    rw [← pow_regLen_div_four]
    exact hlt.trans_le (Nat.pow_le_pow_right (by decide) hfits)
  rw [hx]
  refine ⟨fun k hk => ?_, hlt⟩
  have hk' : k < ds.length := hlen ▸ hk
  have := h.get hk hk'
  rwa [List.get_eq_getElem, List.get_eq_getElem, ← hexValue_digit hdigit hk', ← hlen] at this

theorem ldhex_fits {s : State} {rd : Reg} {bytes : List Byte} (hne : bytes ≠ []) (hfits : bytes.length ≤ regLen rd / 4)
    (h : ∀ b ∈ bytes, ∃ v, IsHexDigit b v) :
    (∀ k (hk : k < bytes.length), IsHexDigit bytes[k] ((ldhexEffect rd bytes s).x rd / 16 ^ (bytes.length - 1 - k) % 16)) ∧
      (ldhexEffect rd bytes s).x rd < 16 ^ bytes.length ∧
      (ldhexEffect rd bytes s).flags = { s.flags with cerr := false, warn := false } ∧
      KeepsDraws s (ldhexEffect rd bytes s) := by
  obtain ⟨ds, hds⟩ := exists_hexDigits h
  have hall := (hexDigits_eq_some_iff bytes ds).1 hds
  have hdne : ds ≠ [] := by rintro rfl; exact hne (List.forall₂_nil_right_iff.1 hall)
  rw [ldhexEffect_of_some (hexLoad_of_fits hds hdne (hall.length_eq ▸ hfits))]
  obtain ⟨hdigits, hlt⟩ := x_setX_hexValue (s := s) hall hfits
  exact ⟨hdigits, hlt, by simp, by simp [KeepsDraws]⟩

theorem ldhex_long {s : State} {rd : Reg} {bytes : List Byte} (hlong : regLen rd / 4 < bytes.length)
    (h : ∀ b ∈ bytes, ∃ v, IsHexDigit b v) :
    (∀ k (_ : k < regLen rd / 4),
      ∃ hk : hexSkip Config.hexTrunc bytes.length (regLen rd / 4) + k < bytes.length,
        IsHexDigit bytes[hexSkip Config.hexTrunc bytes.length (regLen rd / 4) + k]
          ((ldhexEffect rd bytes s).x rd / 16 ^ (regLen rd / 4 - 1 - k) % 16)) ∧
      (ldhexEffect rd bytes s).flags = { s.flags with cerr := false, warn := true } ∧
      KeepsDraws s (ldhexEffect rd bytes s) := by
  obtain ⟨ds, hds⟩ := exists_hexDigits h
  have hall := (hexDigits_eq_some_iff bytes ds).1 hds
  have hlen := hall.length_eq
  have hskip := hexSkip_add_le Config.hexTrunc hlong.le
  rw [ldhexEffect_of_some (hexLoad_of_long hds (hlen ▸ hlong)), hexKeep_eq _ (hlen ▸ hlong.le), ← hlen]
  generalize hexSkip Config.hexTrunc bytes.length (regLen rd / 4) = skip at hskip ⊢
  have hkept : ((bytes.drop skip).take (regLen rd / 4)).length = regLen rd / 4 := by simp; omega
  have hall' := List.forall₂_take (regLen rd / 4) (List.forall₂_drop skip hall)
  obtain ⟨hdigits, -⟩ := x_setX_hexValue (s := s) hall' hkept.le
  refine ⟨fun k hk => ⟨by omega, ?_⟩, by simp, by simp [KeepsDraws]⟩
  have hdigit := hdigits k (by omega)
  simp only [hkept, List.getElem_take, List.getElem_drop] at hdigit
  exact hdigit

theorem ldhex_bad {s : State} {rd : Reg} {bytes : List Byte}
    (h : bytes = [] ∨ ∃ b ∈ bytes, ∀ v, ¬ IsHexDigit b v) :
    (ldhexEffect rd bytes s).flags = { s.flags with cerr := true, warn := false } ∧
      (ldhexEffect rd bytes s).draws = { s.draws with freePos := s.draws.freePos + 1 } := by
  have hbad : hexDigits bytes = none ∨ bytes = [] := h.symm.imp_left fun ⟨b, hb, hv⟩ => hexDigits_eq_none hb hv
  rw [ldhexEffect_of_none (hexLoad_of_bad hbad _ _)]
  exact ⟨by simp, rfl⟩

/-- What holds of every byte of a string that lies in BUF. -/
theorem forall_mem_memRead {s : State} {a n : Nat} {P : Byte → Prop} :
    (∀ b ∈ s.memRead a n, P b) ↔ ∀ k, k < n → P (s.byte (a + k)) := by
  simp only [List.forall_mem_iff_forall_getElem, State.memRead_length, State.memRead_getElem]

/-- Settles O31: the string in BUF is decoded or not, and fits or not. -/
theorem ldhexLoadsOrReports : Obligations.LdhexLoadsOrReports := by
  intro rd a s
  rw [exec_ldhex]
  refine ⟨fun hpast => guarded_first ((pastBuf_iff _ _).2 hpast),
    fun hfits hact => guarded_second ((pastBuf_eq_false_iff _ _).2 hfits) hact,
    fun hfits hact => guarded_completes (firstCause_two_none ((pastBuf_eq_false_iff _ _).2 hfits) hact _ _)
      ⟨fun hne hshort hhex => ?_, fun hlong hhex => ?_, fun hbad => ?_, ldhexEffect_frame rd _ s⟩⟩
  · have hlen := s.memRead_length a.toNat s.len.toNat
    obtain ⟨hdigits, hlt, hrest⟩ := ldhex_fits (s := s) (rd := rd) (bytes := s.memRead a.toNat s.len.toNat)
      (List.ne_nil_of_length_pos (by omega)) (by omega) (forall_mem_memRead.2 hhex)
    rw [hlen] at hlt
    refine ⟨fun k hk => ?_, hlt, hrest⟩
    have := hdigits k (by omega)
    rwa [State.memRead_getElem, hlen] at this
  · have hlen := s.memRead_length a.toNat s.len.toNat
    obtain ⟨hdigits, hrest⟩ := ldhex_long (s := s) (rd := rd) (bytes := s.memRead a.toNat s.len.toNat) (by omega)
      (forall_mem_memRead.2 hhex)
    refine ⟨fun k hk => ?_, hrest⟩
    obtain ⟨hk', hdigit⟩ := hdigits k hk
    rw [State.memRead_getElem] at hdigit
    simp only [hlen, ← Nat.add_assoc] at hdigit
    exact hdigit
  · refine ldhex_bad (hbad.imp (fun h => ?_) fun ⟨k, hk, hv⟩ => ?_)
    · rw [h]; rfl
    · have hk' : k < (s.memRead a.toNat s.len.toNat).length := by rwa [State.memRead_length]
      refine ⟨_, List.getElem_mem hk', ?_⟩
      rwa [State.memRead_getElem]

/-! ## STHEX -/

/-- Each character of a value is its base-16 digit, the most significant first (R42). -/
theorem hexString_getElem (v n : Nat) {k : Nat} (hk : k < (hexString v n).length) :
    (hexString v n)[k] = hexChar (v / 16 ^ (n - 1 - k) % 16) := by
  induction n generalizing k with
  | zero => simp [hexString] at hk
  | succ n ih =>
    cases k with
    | zero => simp [hexString]
    | succ k =>
      simp only [hexString, List.getElem_cons_succ]
      rw [ih, show n + 1 - 1 - (k + 1) = n - 1 - k by omega]

/-- Settles O32: the characters stored are the base-16 digits of the value, and no other byte is stored. -/
theorem sthexStoresUpperCaseDigits : Obligations.SthexStoresUpperCaseDigits := by
  refine fun rd a s =>
    ⟨fun hpast => guarded_first ((pastBuf_iff _ _).2 hpast),
    fun hfits => guarded_completes (firstCause_one_none ((pastBuf_eq_false_iff _ _).2 hfits) _)
      ⟨fun k hk => ?_, ?_, memWrite_keeps_all_but_buf s _ _⟩⟩
  · rw [State.byte_memWrite, dif_pos (by simpa using hk), hexString_getElem, toNat_hexChar (Nat.mod_lt _ (by decide)),
      Nat.add_sub_cancel_left]
  · have := keepsBytes_memWrite s a.toNat (hexString (s.x rd) (regLen rd / 4))
    rwa [hexString_length] at this

/-! ## What was stored loads back -/

theorem beNat_cons (b : Byte) (bytes : List Byte) : beNat (b :: bytes) = b.toNat * 256 ^ bytes.length + beNat bytes := by
  induction bytes using List.reverseRecOn with
  | nil => simp [beNat]
  | append_singleton bytes c ih =>
    rw [← List.cons_append, beNat_append_singleton, beNat_append_singleton, ih, List.length_append, List.length_singleton,
      pow_succ]
    ring

theorem beNat_bytesBe (v n : Nat) : beNat (bytesBe v n) = v % 256 ^ n := by
  induction n with
  | zero => simp [bytesBe, beNat, Nat.mod_one]
  | succ n ih =>
    rw [bytesBe, beNat_cons, bytesBe_length, ih, BitVec.toNat_ofNat, show 2 ^ 8 = 256 from rfl, Nat.mod_pow_succ]
    ring

/-- The hex digits of a value, the most significant first. -/
def hexDigitsOf (v : Nat) : Nat → List Nat
  | 0 => []
  | n + 1 => v / 16 ^ n % 16 :: hexDigitsOf v n

@[simp] theorem hexDigitsOf_length (v n : Nat) : (hexDigitsOf v n).length = n := by
  induction n with
  | zero => rfl
  | succ n ih => rw [hexDigitsOf, List.length_cons, ih]

/-- The characters STHEX stores are read as the digits they stand for. -/
theorem hexDigits_hexString (v n : Nat) : hexDigits (hexString v n) = some (hexDigitsOf v n) := by
  rw [hexDigits_eq_some_iff]
  induction n with
  | zero => exact .nil
  | succ n ih => exact .cons (isHexDigit_hexChar (Nat.mod_lt _ (by decide))) ih

theorem hexValue_cons (d : Nat) (ds : List Nat) : hexValue (d :: ds) = d * 16 ^ ds.length + hexValue ds := by
  induction ds using List.reverseRecOn with
  | nil => simp [hexValue]
  | append_singleton ds c ih =>
    rw [← List.cons_append, hexValue_append_singleton, hexValue_append_singleton, ih, List.length_append,
      List.length_singleton, pow_succ]
    ring

theorem hexValue_hexDigitsOf (v n : Nat) : hexValue (hexDigitsOf v n) = v % 16 ^ n := by
  induction n with
  | zero => simp [hexDigitsOf, hexValue, Nat.mod_one]
  | succ n ih =>
    rw [hexDigitsOf, hexValue_cons, hexDigitsOf_length, ih, Nat.mod_pow_succ]
    ring

/-- The string of all digits of a value loads it whole. -/
theorem hexLoad_hexString {v : Nat} {r : Reg} (hv : v < 2 ^ regLen r) (trunc : HexTrunc) :
    hexLoad trunc (regLen r) (hexString v (regLen r / 4)) = some (v, false) := by
  have hpos : 0 < regLen r / 4 := by obtain h | h := regLen_cases r <;> rw [h] <;> decide
  rw [hexLoad_of_fits (hexDigits_hexString v _) (List.ne_nil_of_length_pos (by simpa using hpos)) (by simp),
    hexValue_hexDigitsOf, pow_regLen_div_four, Nat.mod_eq_of_lt hv]

/-- What is read from BUF depends on its bytes only. -/
theorem State.memRead_congr {s t : State} (h : ∀ a, t.byte a = s.byte a) (a n : Nat) : t.memRead a n = s.memRead a n := by
  induction n generalizing a with
  | zero => rfl
  | succ n ih => rw [State.memRead, State.memRead, h, ih]

/-- LDHEX of the string of all digits of a value. -/
theorem exec_ldhex_hexString {re : Reg} {a : Imm} {t : State} {v : Nat} (hv : v < 2 ^ regLen re)
    (hfits : a.toNat + t.len.toNat ≤ Config.bufSize) (hact : t.tabActive re = false)
    (hread : t.memRead a.toNat t.len.toNat = hexString v (regLen re / 4)) :
    ∃ u, exec (.ldhex re a) t = .next u ∧ u.x re = v ∧ u.cerr = false ∧ u.warn = false := by
  have hload : hexLoad Config.hexTrunc (regLen re) (t.memRead a.toNat t.len.toNat) = some (v, false) := by
    rw [hread]
    exact hexLoad_hexString hv _
  rw [exec_ldhex, guarded_of_none (firstCause_two_none ((pastBuf_eq_false_iff _ _).2 hfits) hact _ _),
    ldhexEffect_of_some hload]
  refine ⟨_, rfl, ?_, rfl, rfl⟩
  rw [State.setHexFlags_x, State.x_setX_self, Nat.mod_eq_of_lt hv]

/-- Settles O33: what is read back is what was written, and its digits make the value again. -/
theorem storedValuesLoadBack : Obligations.StoredValuesLoadBack := by
  intro rd re a s hlen hact
  have hx : s.x rd < 2 ^ regLen re := hlen ▸ s.x_lt rd
  refine ⟨fun hfits => ?_, fun hfits => ?_⟩
  · have hbuf := (pastBuf_eq_false_iff _ _).2 hfits
    have hread : beNat ((s.memWrite a.toNat (bytesBe (s.x rd) (regLen rd / 8))).memRead a.toNat (regLen re / 8)) =
        s.x rd := by
      have h := s.memRead_memWrite a.toNat (bytesBe (s.x rd) (regLen rd / 8))
      rw [bytesBe_length] at h
      rw [← hlen, h, beNat_bytesBe, pow_regLen_div_eight, Nat.mod_eq_of_lt (s.x_lt rd)]
    refine ⟨_, _, guarded_of_none (firstCause_one_none hbuf _) _ _ _,
      guarded_of_none (firstCause_two_none (hlen ▸ hbuf) hact _ _) _ _ _, ?_⟩
    rw [hread, State.x_setX_self, Nat.mod_eq_of_lt hx]
  · have hcount : (BitVec.ofNat 16 (regLen rd / 4)).toNat = regLen rd / 4 := by
      obtain h | h := regLen_cases rd <;> rw [h] <;> rfl
    have hread := s.memRead_memWrite a.toNat (hexString (s.x rd) (regLen rd / 4))
    rw [hexString_length] at hread
    have hloaded (t : State)
        (hbyte : ∀ b, t.byte b = (s.memWrite a.toNat (hexString (s.x rd) (regLen rd / 4))).byte b) :
        t.memRead a.toNat (regLen rd / 4) = hexString (s.x rd) (regLen rd / 4) :=
      (State.memRead_congr hbyte _ _).trans hread
    obtain ⟨u, hu⟩ := exec_ldhex_hexString (a := a) hx (t := { s.memWrite a.toNat (hexString (s.x rd) (regLen rd / 4)) with
      len := BitVec.ofNat 16 (regLen rd / 4) }) (by rw [hcount]; exact hfits) hact (by
        rw [hcount, ← hlen]
        exact hloaded _ fun _ => rfl)
    exact ⟨_, u, guarded_of_none (firstCause_one_none ((pastBuf_eq_false_iff _ _).2 hfits) _) _ _ _, hu⟩

end Sys2Proof.Machine
end

section
/-! SUPPORT. The arithmetic of the modular engine: the Montgomery loop, the reduction by a table and the windowed
exponentiation as numbers (spec/42_modular_engine.md R122, R124, R125; spec/43_exponentiation.md R140, R141). -/

namespace Sys2Proof.Machine

/-! ## The Montgomery loop as one number -/

/-- The decision bit is the parity of the number after the addition of `xi*y`. -/
theorem montU_toNat (xi : Bool) (y : Nat) (acc : MontAcc) :
    (montU xi y acc).toNat = (acc.hi * 2 ^ 1024 + acc.a + xi.toNat * y) % 2 := by
  have hmul : xi.toNat * y % 2 = xi.toNat * (y % 2) % 2 := by cases xi <;> simp
  have hpar : (acc.hi * 2 ^ 1024 + acc.a + xi.toNat * y) % 2 = (acc.a % 2 + xi.toNat * (y % 2)) % 2 := by omega
  rw [hpar, montU]
  obtain h | h := Nat.mod_two_eq_zero_or_one (acc.a % 2 + xi.toNat * (y % 2)) <;> rw [h] <;> rfl

/-- One turn of the loop takes the number to the next one. -/
theorem montStep_number {x y m i : Nat} {acc : MontAcc} (ha : acc.a < 2 ^ 1024)
    (hn : acc.hi * 2 ^ 1024 + acc.a = montNumber x y m i) :
    (montStep x y m i acc).a < 2 ^ 1024 ∧
      (montStep x y m i acc).hi * 2 ^ 1024 + (montStep x y m i acc).a = montNumber x y m (i + 1) := by
  obtain ⟨hy, hsum⟩ := MontAcc.addIf_number (x.testBit i) y ha
  obtain ⟨hm, htotal⟩ := MontAcc.addIf_number (montU (x.testBit i) y acc) m hy
  obtain ⟨hshift, hhalf⟩ := MontAcc.shift_number hm
  refine ⟨hshift, ?_⟩
  rw [montStep, hhalf, htotal, hsum, montU_toNat, hn]
  rfl

theorem montLoop_number {x y m : Nat} (n : Nat) {i : Nat} {acc : MontAcc} (ha : acc.a < 2 ^ 1024)
    (hn : acc.hi * 2 ^ 1024 + acc.a = montNumber x y m i) :
    (montLoop x y m n i acc).hi * 2 ^ 1024 + (montLoop x y m n i acc).a = montNumber x y m (i + n) := by
  induction n generalizing i acc with
  | zero => exact hn
  | succ n ih =>
    obtain ⟨ha', hn'⟩ := montStep_number ha hn
    rw [montLoop_succ, ih ha' hn', Nat.add_right_comm, Nat.add_assoc]

/-- `T` of the loop is the residue of the one number. -/
theorem montT_eq (x y m t : Nat) : montT x y m t = montResidue x y m t := by
  have h := montLoop_number (x := x) (y := y) (m := m) (t + 1) (i := 0) (acc := ⟨0, 0⟩) (Nat.two_pow_pos _)
    (by simp [montNumber])
  rw [Nat.zero_add] at h
  rw [montT, montResidue, ← h]

/-- The number stays below the sum of `y` and the modulus. -/
theorem montNumber_lt {x y m : Nat} (hm : 0 < m) (n : Nat) : montNumber x y m n < y + m := by
  induction n with
  | zero => exact Nat.add_pos_right _ hm
  | succ n ih =>
    have hy : (x.testBit n).toNat * y ≤ y := by cases x.testBit n <;> simp
    have hu : (montNumber x y m n + (x.testBit n).toNat * y) % 2 * m ≤ m := by
      obtain h | h := Nat.mod_two_eq_zero_or_one (montNumber x y m n + (x.testBit n).toNat * y) <;> rw [h] <;> omega
    rw [montNumber]
    omega

/-- With `y` below the modulus the residue is below it too. -/
theorem montResidue_lt {x y m t : Nat} (hy : y < m) : montResidue x y m t < m := by
  have := montNumber_lt (x := x) (y := y) (Nat.zero_lt_of_lt hy) (t + 1)
  rw [montResidue]
  split <;> omega

theorem mod_two_pow_succ_eq (x n : Nat) : x % 2 ^ (n + 1) = x % 2 ^ n + 2 ^ n * (x.testBit n).toNat := by
  rw [pow_succ, Nat.mod_mul, Nat.toNat_testBit]

/-- For an odd modulus every halving is exact: `2^n` times the number is the product with the low `n` bits of `x`, up to a
multiple of the modulus. -/
theorem montNumber_mul_two_pow (x y : Nat) {m : Nat} (hm : m % 2 = 1) (n : Nat) :
    ∃ u, montNumber x y m n * 2 ^ n = x % 2 ^ n * y + u * m := by
  induction n with
  | zero => exact ⟨0, by simp [montNumber, Nat.mod_one]⟩
  | succ n ih =>
    obtain ⟨u, hu⟩ := ih
    rw [montNumber]
    generalize hs : montNumber x y m n + (x.testBit n).toNat * y = sum
    have heven : (sum + sum % 2 * m) / 2 * 2 = sum + sum % 2 * m := by
      refine Nat.div_mul_cancel (Nat.dvd_of_mod_eq_zero ?_)
      obtain h | h := Nat.mod_two_eq_zero_or_one sum <;> rw [h] <;> omega
    refine ⟨u + sum % 2 * 2 ^ n, ?_⟩
    calc (sum + sum % 2 * m) / 2 * 2 ^ (n + 1) = (sum + sum % 2 * m) / 2 * 2 * 2 ^ n := by ring
      _ = montNumber x y m n * 2 ^ n + (x.testBit n).toNat * y * 2 ^ n + sum % 2 * m * 2 ^ n := by rw [heven, ← hs]; ring
      _ = (x % 2 ^ n + 2 ^ n * (x.testBit n).toNat) * y + (u + sum % 2 * 2 ^ n) * m := by rw [hu]; ring
      _ = x % 2 ^ (n + 1) * y + (u + sum % 2 * 2 ^ n) * m := by
        rw [mod_two_pow_succ_eq]

theorem montResidue_modEq (x y m t : Nat) : montResidue x y m t ≡ montNumber x y m (t + 1) [MOD m] := by
  rw [montResidue]
  split
  · next h => exact (Nat.modEq_iff_dvd' (Nat.sub_le _ _)).2 (by rw [Nat.sub_sub_self h])
  · rfl

/-- What MULMONT gives for an odd modulus: the product with the low bits of `x` (R125). -/
theorem mulMont_odd (x y t : Nat) {m : Nat} (hm : m % 2 = 1) : mulMont x y m t = x % 2 ^ (t + 1) * y % m := by
  obtain ⟨u, hu⟩ := montNumber_mul_two_pow x y hm (t + 1)
  calc mulMont x y m t = montResidue x y m t * 2 ^ (t + 1) % m := by rw [mulMont, montT_eq, Nat.shiftLeft_eq]
    _ = montNumber x y m (t + 1) * 2 ^ (t + 1) % m := (montResidue_modEq x y m t).mul_right _
    _ = x % 2 ^ (t + 1) * y % m := by rw [hu, Nat.add_mul_mod_self_right]

/-! ## A table of a modulus -/

/-- What the reductions need of the table of `m`: the index of the top bit and the powers, up to multiples of `m`. -/
structure Table.Holds (t : Table) (m : Nat) : Prop where
  pos : 0 < m
  msb : t.msb = msbOf m
  entry : ∀ j, j ≤ msbOf m → t.entry j ≡ 2 ^ (msbOf m + j) [MOD m]

theorem TableInv.holds {s : State} {r : Reg} (h : TableInv s r) (hact : s.tabActive r = true) :
    (s.tab r).Holds (s.x r) := by
  obtain ⟨hpos, hmsb, -, hentry⟩ := h hact
  exact ⟨hpos, hmsb, fun j hj => by rw [hentry j hj]; exact Nat.mod_modEq _ _⟩

theorem tableOf_holds {m : Nat} (hm : 0 < m) (hl : m < 2 ^ 1024) : (tableOf m).Holds m :=
  ⟨hm, rfl, fun j hj => by rw [tableOf_entry hm hl hj]; exact Nat.mod_modEq _ _⟩

theorem Table.Holds.lt_two_pow {t : Table} {m : Nat} (h : t.Holds m) : m < 2 ^ (t.msb + 1) := by
  rw [h.msb, ← bitlen_pos h.pos.ne']
  exact lt_two_pow_bitlen m

/-- MULMONT for an odd modulus with operands of no more bits than it is multiplication. -/
theorem mulMont_odd_of_lt {t m : Nat} (hm : m % 2 = 1) {x : Nat} (hx : x < 2 ^ (t + 1)) (y : Nat) :
    mulMont x y m t = x * y % m := by
  rw [mulMont_odd x y t hm, Nat.mod_eq_of_lt hx]

/-! ## Reduction by a table -/

/-- The scan keeps the sum of the value and the accumulator, up to multiples of the modulus. -/
theorem Table.Holds.scan_modEq {t : Table} {m : Nat} (h : t.Holds m) {n : Nat} (hn : n ≤ msbOf m) (v acc : Nat) :
    (t.scan n v acc).2 + (t.scan n v acc).1 ≡ acc + v [MOD m] := by
  induction n generalizing v acc with
  | zero => rfl
  | succ n ih =>
    rw [Table.scan]
    split
    · next hbit =>
      have hle : 2 ^ (t.msb + (n + 1)) ≤ v := Nat.ge_two_pow_of_testBit hbit
      refine (ih (Nat.le_of_succ_le hn) _ _).trans ?_
      have hentry := (h.entry (n + 1) hn).add_left acc |>.add_right (v - 2 ^ (t.msb + (n + 1)))
      rw [← h.msb, Nat.add_assoc acc (2 ^ _), Nat.add_sub_of_le hle] at hentry
      exact hentry
    · exact ih (Nat.le_of_succ_le hn) _ _

/-- The table-driven reduction leaves the remainder, of a value of at most `2*msb(M)+1` bits (R122). -/
theorem Table.Holds.reduce_eq {t : Table} {m v : Nat} (h : t.Holds m) (hv : msbOf v ≤ 2 * msbOf m) :
    t.reduce m v = v % m := by
  have := h.scan_modEq (n := msbOf v - t.msb) (by rw [h.msb]; omega) v 0
  rwa [Nat.zero_add] at this

/-- The reduction precondition in bits. -/
theorem tooLong_iff_bitlen (t : Table) (v : Nat) : t.tooLong v = true ↔ 2 * t.msb + 1 < bitlen v := by
  rw [Table.tooLong_iff, bitlen]
  split <;> omega

theorem msbOf_le_of_bitlen_le {v n : Nat} (h : bitlen v ≤ n + 1) : msbOf v ≤ n := by
  rw [bitlen] at h
  split at h
  · next h0 => rw [h0]; exact Nat.zero_le n
  · exact Nat.le_of_succ_le_succ h

/-! ## Windowed exponentiation -/

/-- MULMONT as the windowed exponentiation uses it: below the modulus' power of two it multiplies. -/
def MulsModulo (mm : Nat → Nat → Nat) (m b : Nat) : Prop := ∀ x y, x < b → mm x y = x * y % m

theorem powList_getD {mm : Nat → Nat → Nat} {m b c : Nat} (hmm : MulsModulo mm m b) (hm : 0 < m) (hb : m ≤ b) (n i j : Nat)
    (hi : i < n) : (powList mm c n (c ^ j % m)).getD i 0 = c ^ (j + i) % m := by
  induction n generalizing i j with
  | zero => exact absurd hi (Nat.not_lt_zero _)
  | succ n ih =>
    rw [powList_succ]
    cases i with
    | zero => rfl
    | succ i =>
      have hnext : mm (c ^ j % m) c = c ^ (j + 1) % m := by
        rw [hmm _ _ ((Nat.mod_lt _ hm).trans_le hb), pow_succ, Nat.mod_mul_mod]
      rw [List.getD_cons_succ, hnext, ih i (j + 1) (Nat.lt_of_succ_lt_succ hi), Nat.add_right_comm, Nat.add_assoc]

theorem powTable_getD {mm : Nat → Nat → Nat} {m b c : Nat} (hmm : MulsModulo mm m b) (hm : 0 < m) (hb : m ≤ b) {w : Nat}
    (hw : w ≠ 0) (hlt : w < 32) : (powTable mm (c % m)).getD w 0 = c ^ w % m := by
  obtain ⟨i, rfl⟩ := Nat.exists_eq_succ_of_ne_zero hw
  have h := powList_getD (c := c % m) hmm hm hb 31 i 1 (Nat.lt_of_succ_lt_succ hlt)
  rw [pow_one, Nat.mod_mod, Nat.add_comm] at h
  rw [powTable, List.getD_cons_succ, h, ← Nat.pow_mod]

theorem squareTimes_eq {mm : Nat → Nat → Nat} {m b : Nat} (hmm : MulsModulo mm m b) (hm : 0 < m) (hb : m ≤ b) (n : Nat)
    {acc : Nat} (hacc : acc < b) : squareTimes mm (n + 1) acc = acc ^ 2 ^ (n + 1) % m := by
  induction n generalizing acc with
  | zero => rw [squareTimes_succ, hmm _ _ hacc, squareTimes, zero_add, pow_one, sq]
  | succ n ih =>
    have hlt : mm acc acc < b := by rw [hmm _ _ hacc]; exact (Nat.mod_lt _ hm).trans_le hb
    rw [squareTimes_succ, ih hlt, hmm _ _ hacc, ← Nat.pow_mod, ← sq, ← pow_mul, ← pow_succ']

/-- One window: the exponent so far is shifted by the window and the window added. -/
theorem expWindow_eq {mm : Nat → Nat → Nat} {m b c : Nat} (hmm : MulsModulo mm m b) (hm : 0 < m) (hb : m ≤ b) {acc k w : Nat}
    (hacc : acc < b) (hval : acc ≡ c ^ k [MOD m]) (hw : w < 32) :
    (if w ≠ 0 then mm (squareTimes mm Config.window acc) ((powTable mm (c % m)).getD w 0)
      else squareTimes mm Config.window acc) = c ^ (32 * k + w) % m := by
  have hsq : squareTimes mm Config.window acc = c ^ (32 * k) % m := by
    rw [show Config.window = 4 + 1 from rfl, squareTimes_eq hmm hm hb 4 hacc, mul_comm, pow_mul]
    exact hval.pow 32
  rw [hsq]
  split
  · next h0 => rw [powTable_getD hmm hm hb h0 hw, hmm _ _ ((Nat.mod_lt _ hm).trans_le hb), ← Nat.mul_mod, pow_add]
  · next h0 => rw [not_not.1 h0, Nat.add_zero]

theorem expWindows_succ (mm : Nat → Nat → Nat) (pow : List Nat) (e n acc : Nat) :
    expWindows mm pow e (n + 1) acc = expWindows mm pow e n
      (if (e / 32 ^ n) % 32 ≠ 0 then mm (squareTimes mm Config.window acc) (pow.getD ((e / 32 ^ n) % 32) 0)
        else squareTimes mm Config.window acc) := by
  have hw : (e >>> (Config.window * n)) % 2 ^ Config.window = e / 32 ^ n % 32 := by
    rw [Nat.shiftRight_eq_div_pow, show Config.window = 5 from rfl, pow_mul]; norm_num
  rw [expWindows, evalFirst_eq, hw]

theorem expWindows_modEq {mm : Nat → Nat → Nat} {m b c : Nat} (hmm : MulsModulo mm m b) (hm : 0 < m) (hb : m ≤ b) (e n : Nat)
    {acc : Nat} (hacc : acc < b) (hval : acc ≡ c ^ (e / 32 ^ n) [MOD m]) :
    expWindows mm (powTable mm (c % m)) e n acc ≡ c ^ e [MOD m] := by
  induction n generalizing acc with
  | zero => simpa [expWindows] using hval
  | succ n ih =>
    have hexp : 32 * (e / 32 ^ (n + 1)) + e / 32 ^ n % 32 = e / 32 ^ n := by
      rw [pow_succ, ← Nat.div_div_eq_div_mul, Nat.div_add_mod]
    have hacc' := expWindow_eq (w := e / 32 ^ n % 32) hmm hm hb hacc hval (Nat.mod_lt _ (by norm_num))
    rw [hexp] at hacc'
    rw [expWindows_succ, hacc']
    exact ih ((Nat.mod_lt _ hm).trans_le hb) (Nat.mod_modEq _ _)

theorem expWindows_lt {mm : Nat → Nat → Nat} {m : Nat} (hmm : ∀ x y, mm x y < m) (pow : List Nat) (e n : Nat)
    {acc : Nat} : expWindows mm pow e (n + 1) acc < m := by
  have hsq (k acc : Nat) : squareTimes mm (k + 1) acc < m := by
    induction k generalizing acc with
    | zero => rw [squareTimes_succ]; exact hmm _ _
    | succ k ih => rw [squareTimes_succ]; exact ih _
  induction n generalizing acc with
  | zero =>
    rw [expWindows_succ, expWindows]
    split
    · exact hmm _ _
    · exact hsq 4 acc
  | succ n ih => rw [expWindows_succ]; exact ih

/-- The windowed exponentiation for an odd modulus is exponentiation (R140, R141). -/
theorem Table.Holds.windowExp_eq {t : Table} {m : Nat} (h : t.Holds m) (hodd : m % 2 = 1) {base e : Nat}
    (hbase : msbOf base ≤ 2 * msbOf m) (he : e < 2 ^ 1024) : windowExp t base e m = base ^ e % m := by
  have hmm : MulsModulo (fun x y => mulMont x y m t.msb) m (2 ^ (t.msb + 1)) := fun x y hx => mulMont_odd_of_lt hodd hx y
  have hone : 1 < 2 ^ (t.msb + 1) := Nat.one_lt_two_pow (Nat.succ_ne_zero _)
  have htop : e / 32 ^ Config.numWindows = 0 :=
    Nat.div_eq_of_lt (he.trans_le (by rw [show (32 : Nat) = 2 ^ 5 from rfl, ← pow_mul]; exact Nat.pow_le_pow_right two_pos (by decide)))
  have hval : 1 ≡ base ^ (e / 32 ^ Config.numWindows) [MOD m] := by rw [htop, pow_zero]
  have hmod := expWindows_modEq hmm h.pos h.lt_two_pow.le e Config.numWindows hone hval
  have hlt := expWindows_lt (mm := fun x y => mulMont x y m t.msb) (fun x y => mulMont_lt x y t.msb h.pos)
    (powTable (fun x y => mulMont x y m t.msb) (base % m)) e 204 (acc := 1)
  rw [windowExp, h.reduce_eq hbase]
  exact (Nat.mod_eq_of_lt hlt).symm.trans hmod

end Sys2Proof.Machine
end

section
/-! PROOFS. The statements of spec/42_modular_engine.md about MOD and MULMONT (R122, R124, R125) and of
spec/43_exponentiation.md about EXP (R140, R141). -/

namespace Sys2Proof.Machine

/-! ## The fault conditions of the modular commands -/

theorem firstCause_four_none {b b' b'' b''' : Bool} (h : b = false) (h' : b' = false) (h'' : b'' = false) (h''' : b''' = false)
    (c c' c'' c''' : Cause) : firstCause [(b, c), (b', c'), (b'', c''), (b''', c''')] = none := by
  rw [h, firstCause_cons_false, firstCause_three_none h' h'' h''']

/-- A guarded command whose fourth fault condition is the first to hold takes that fault (R206). -/
theorem guarded_fourth {b b' b'' b''' : Bool} (h : b = false) (h' : b' = false) (h'' : b'' = false) (h''' : b''' = true)
    {c c' c'' c''' : Cause} {rest : List (Bool × Cause)} {i : Instr} {s effect : State} :
    guarded ((b, c) :: (b', c') :: (b'', c'') :: (b''', c''') :: rest) i s effect = .next (takeFault c''' (encode i) s) :=
  (guarded_skip h).trans (guarded_third h' h'' h''')

theorem anyWide_four_eq_false {q r r' r'' : Reg} (hq : q.toNat < 24) (h : r.toNat < 24) (h' : r'.toNat < 24)
    (h'' : r''.toNat < 24) : (!isSingle q || !isSingle r || !isSingle r' || !isSingle r'') = false := by
  rw [not_isSingle_eq_false hq, not_isSingle_eq_false h, not_isSingle_eq_false h', not_isSingle_eq_false h'']
  rfl

theorem not_eq_true_of_eq_false {b : Bool} (h : b = false) : (!b) = true := by rw [h]; rfl

theorem not_eq_false_of_eq_true {b : Bool} (h : b = true) : (!b) = false := by rw [h]; rfl

theorem tooLong_eq_false {t : Table} {m v : Nat} (h : t.Holds m) (hv : bitlen v ≤ 2 * msbOf m + 1) : t.tooLong v = false := by
  rw [← Bool.not_eq_true, tooLong_iff_bitlen, h.msb]
  exact Nat.not_lt.2 hv

theorem tooLong_eq_true {t : Table} {m v : Nat} (h : t.Holds m) (hv : bitlen v > 2 * msbOf m + 1) : t.tooLong v = true := by
  rw [tooLong_iff_bitlen, h.msb]
  exact hv

/-- A remainder by a single-width register fits every register. -/
theorem mod_x_mod_regLen {s : State} {r : Reg} (hr : r.toNat < 24) (hpos : 0 < s.x r) (v : Nat) (rd : Reg) :
    v % s.x r % 2 ^ regLen rd = v % s.x r := by
  refine Nat.mod_eq_of_lt ((Nat.mod_lt _ hpos).trans ((s.x_lt r).trans_le (Nat.pow_le_pow_right two_pos ?_)))
  rw [regLen, if_pos ((isSingle_iff r).2 hr), regLen]
  split
  · exact le_rfl
  · decide

/-! ## MOD -/

/-- Settles O36: the scan over the table leaves the remainder, for every value it takes. -/
theorem modComputesTheRemainder : Obligations.ModComputesTheRemainder := by
  intro rd ra s hinv
  refine ⟨fun hwide => guarded_first ((not_isSingle_iff ra).2 hwide),
    fun hra hact => guarded_second (not_isSingle_eq_false hra) (not_eq_true_of_eq_false hact),
    fun hact hrd => guarded_third (not_isSingle_eq_false (State.toNat_lt_of_tabActive hact)) (not_eq_false_of_eq_true hact) hrd,
    fun hact hrd hlong => guarded_fourth (not_isSingle_eq_false (State.toNat_lt_of_tabActive hact))
      (not_eq_false_of_eq_true hact) hrd (tooLong_eq_true (hinv.holds hact) hlong),
    fun hact hrd hshort => ?_⟩
  have hra := State.toNat_lt_of_tabActive hact
  have hholds := hinv.holds hact
  refine guarded_setX_completes (P := fun v => v = s.x rd % s.x ra)
    (firstCause_four_none (not_isSingle_eq_false hra) (not_eq_false_of_eq_true hact) hrd (tooLong_eq_false hholds hshort) ..) ?_
  rw [hholds.reduce_eq (msbOf_le_of_bitlen_le hshort), mod_x_mod_regLen hra hholds.pos]

/-! ## MULMONT -/

/-- MULMONT with single-width operands and an active table: REDUCE exactly when `T` has more bits than the modulus. -/
theorem exec_mulmont_cases {rd ra rb rc : Reg} {s : State} (hinv : TableInv s rc) (hrd : rd.toNat < 24) (hra : ra.toNat < 24)
    (hrb : rb.toNat < 24) (hact : s.tabActive rc = true) (hrdact : s.tabActive rd = false) :
    (2 ^ bitlen (s.x rc) ≤ montResidue (s.x ra) (s.x rb) (s.x rc) (msbOf (s.x rc)) →
        exec (.mulmont rd ra rb rc) s = .next (takeFault .reduce (encode (.mulmont rd ra rb rc)) s)) ∧
      (montResidue (s.x ra) (s.x rb) (s.x rc) (msbOf (s.x rc)) < 2 ^ bitlen (s.x rc) →
        ∃ t, exec (.mulmont rd ra rb rc) s = .next t ∧
          t.x rd = mulMont (s.x ra) (s.x rb) (s.x rc) (msbOf (s.x rc)) ∧ t.flags = s.flags ∧ OnlyRegs s t [rd]) := by
  have hrc := State.toNat_lt_of_tabActive hact
  have hholds := hinv.holds hact
  have hwide := anyWide_four_eq_false hrd hra hrb hrc
  have htab := not_eq_false_of_eq_true hact
  have hlen : (s.tab rc).msb + 1 = bitlen (s.x rc) := by rw [hholds.msb, bitlen_pos hholds.pos.ne']
  have hT : montT (s.x ra) (s.x rb) (s.x rc) (s.tab rc).msb =
      montResidue (s.x ra) (s.x rb) (s.x rc) (msbOf (s.x rc)) := by rw [montT_eq, hholds.msb]
  have hcheck : (montT (s.x ra) (s.x rb) (s.x rc) (s.tab rc).msb ≥ 2 ^ ((s.tab rc).msb + 1)) ↔
      2 ^ bitlen (s.x rc) ≤ montResidue (s.x ra) (s.x rb) (s.x rc) (msbOf (s.x rc)) := by rw [hT, hlen]
  refine ⟨fun hbig => guarded_fourth hwide htab hrdact (decide_eq_true (hcheck.2 hbig)), fun hsmall => ?_⟩
  refine guarded_setX_completes (P := fun v => v = mulMont (s.x ra) (s.x rb) (s.x rc) (msbOf (s.x rc)))
    (firstCause_four_none hwide htab hrdact (decide_eq_false fun h => Nat.not_le.2 hsmall (hcheck.1 h)) ..) ?_
  rw [hholds.msb, mulMont, mod_x_mod_regLen hrc hholds.pos]

/-- Settles O37: the accumulator and its carry counter hold the one number of the statement. -/
theorem mulmontRunsTheLoop : Obligations.MulmontRunsTheLoop := by
  intro rd ra rb rc s hinv
  refine ⟨fun hwide => guarded_first ((anyWide_four_iff rd ra rb rc).2 hwide),
    fun hrd hra hrb hrc hact => guarded_second (anyWide_four_eq_false hrd hra hrb hrc) (not_eq_true_of_eq_false hact),
    fun hrd hra hrb hact hrdact => guarded_third
      (anyWide_four_eq_false hrd hra hrb (State.toNat_lt_of_tabActive hact)) (not_eq_false_of_eq_true hact) hrdact,
    fun hrd hra hrb hact hrdact => ?_⟩
  obtain ⟨hbig, hsmall⟩ := exec_mulmont_cases hinv hrd hra hrb hact hrdact
  refine ⟨hbig, fun h => ?_, fun hlt => ⟨montResidue_lt hlt, lt_two_pow_bitlen _⟩⟩
  have hpos := (hinv.holds hact).pos
  rw [bitlen_pos hpos.ne', ← montT_eq, ← Nat.shiftLeft_eq]
  exact hsmall h

/-- Settles O38: for an odd modulus the halvings of the loop are exact, so that the power of two cancels. -/
theorem mulmontIsModularMultiplication : Obligations.MulmontIsModularMultiplication := by
  intro rd ra rb rc s hinv hrd hra hrb hact hrdact hodd
  obtain ⟨hbig, hsmall⟩ := exec_mulmont_cases hinv hrd hra hrb hact hrdact
  rw [mulMont_odd _ _ _ hodd, ← bitlen_pos (hinv.holds hact).pos.ne'] at hsmall
  refine ⟨?_, fun hlt => hsmall ((montResidue_lt hlt).trans (lt_two_pow_bitlen _))⟩
  obtain h | h := Nat.lt_or_ge (montResidue (s.x ra) (s.x rb) (s.x rc) (msbOf (s.x rc))) (2 ^ bitlen (s.x rc))
  · exact .inr (hsmall h)
  · exact .inl (hbig h)

/-! ## EXP -/

theorem State.setDraws_self {s : State} {d : Draws} (h : s.draws = d) : s.setDraws d = s := by
  subst h
  rfl

/-- EXP on operands it takes leaves the value and the draws of `expDraw`. -/
theorem exec_exp_completes {rd ra rb rc : Reg} {s : State} (hinv : TableInv s rc) (hrd : rd.toNat < 24) (hra : ra.toNat < 24)
    (hrb : rb.toNat < 24) (hact : s.tabActive rc = true) (hrdact : s.tabActive rd = false)
    (hshort : bitlen (s.x ra) ≤ 2 * msbOf (s.x rc) + 1) :
    exec (.exp rd ra rb rc) s =
      .next ((s.setX rd (expDraw (s.tab rc) (s.x ra) (s.x rb) (s.x rc) s.draws).1).setDraws
        (expDraw (s.tab rc) (s.x ra) (s.x rb) (s.x rc) s.draws).2) :=
  guarded_of_none (firstCause_four_none (anyWide_four_eq_false hrd hra hrb (State.toNat_lt_of_tabActive hact))
    (not_eq_false_of_eq_true hact) hrdact (tooLong_eq_false (hinv.holds hact) hshort) ..) ..

/-- Settles O39: window by window the accumulator is the base to the exponent read so far. -/
theorem expIsModularExponentiation : Obligations.ExpIsModularExponentiation := by
  intro rd ra rb rc s hinv
  refine ⟨fun hwide => guarded_first ((anyWide_four_iff rd ra rb rc).2 hwide),
    fun hrd hra hrb hrc hact => guarded_second (anyWide_four_eq_false hrd hra hrb hrc) (not_eq_true_of_eq_false hact),
    fun hrd hra hrb hact hrdact => guarded_third
      (anyWide_four_eq_false hrd hra hrb (State.toNat_lt_of_tabActive hact)) (not_eq_false_of_eq_true hact) hrdact,
    fun hrd hra hrb hact hrdact hlong => guarded_fourth
      (anyWide_four_eq_false hrd hra hrb (State.toNat_lt_of_tabActive hact)) (not_eq_false_of_eq_true hact) hrdact
      (tooLong_eq_true (hinv.holds hact) hlong),
    fun hrd hra hrb hact hrdact hshort hodd => ?_⟩
  have hholds := hinv.holds hact
  have he : s.x rb < 2 ^ 1024 := by
    have := s.x_lt rb
    rwa [regLen, if_pos ((isSingle_iff rb).2 hrb)] at this
  have hdraw : expDraw (s.tab rc) (s.x ra) (s.x rb) (s.x rc) s.draws = (s.x ra ^ s.x rb % s.x rc, s.draws) := by
    rw [expDraw_odd _ _ _ _ hodd, hholds.windowExp_eq hodd (msbOf_le_of_bitlen_le hshort) he]
  refine ⟨_, exec_exp_completes hinv hrd hra hrb hact hrdact hshort, ?_⟩
  rw [hdraw, State.setDraws_self (s.setX_draws rd _)]
  refine ⟨?_, s.setX_flags rd _, onlyRegs_setX s rd _⟩
  rw [State.x_setX_self, mod_x_mod_regLen (State.toNat_lt_of_tabActive hact) hholds.pos]

/-- Settles O40: with an even modulus one unspecified value is drawn and written. -/
theorem expWithEvenModulusCompletes : Obligations.ExpWithEvenModulusCompletes := by
  intro rd ra rb rc s hinv hrd hra hrb hact hrdact hshort heven
  obtain ⟨-, hdraws⟩ := expDraw_even (s.tab rc) (s.x ra) (s.x rb) s.draws heven
  refine ⟨_, exec_exp_completes hinv hrd hra hrb hact hrdact hshort, ?_⟩
  rw [hdraws]
  refine ⟨by simp, fun q hq => ?_, by simp [KeepsTabs], by simp [KeepsBytes], by simp [KeepsControl], rfl⟩
  rw [State.setDraws_x, State.x_setX_ne _ _ (by simpa using hq)]

end Sys2Proof.Machine
end

section
/-! PROOFS. The statements of spec/44_primality_generation.md about TDIV and MRTEST (R150, R151, R152, R159) and about the
search loops (R153, R154, R155). -/

namespace Sys2Proof.Machine

/-! ## Trial division -/

theorem trialDiv_iff (v : Nat) :
    trialDiv v = true ↔ ∀ p ∈ [3, 5, 7, 11, 13, 17, 19, 23, 29, 31, 37], ¬ p ∣ v := by
  rw [trialDiv, List.all_eq_true]
  refine forall₂_congr fun p _ => ?_
  rw [bne_iff_ne, Nat.dvd_iff_mod_eq_zero]

/-- Settles O41: trial division goes through the list of the small primes. -/
theorem tdivTestsTheSmallPrimes : Obligations.TdivTestsTheSmallPrimes := fun rd s =>
  ⟨_, rfl, rfl, trialDiv_iff (s.x rd), fun _ _ => rfl, fun _ _ => rfl, fun _ _ => rfl, rfl,
    rfl, rfl, rfl, rfl, rfl, rfl, rfl, rfl⟩

/-! ## Strong probable primes -/

/-- The power of two and the odd factor of a number are its own. -/
theorem two_pow_mul_odd_unique {s s' d d' : Nat} (h : 2 ^ s * d = 2 ^ s' * d') (hd : d % 2 = 1) (hd' : d' % 2 = 1) :
    s = s' ∧ d = d' := by
  have hle {s s' d d' : Nat} (h : 2 ^ s * d = 2 ^ s' * d') (hd' : d' % 2 = 1) : s ≤ s' := by
    have hcop : Nat.Coprime (2 ^ s) d' := Nat.Coprime.pow_left s (Nat.coprime_two_left.2 (Nat.odd_iff.2 hd'))
    exact (Nat.pow_dvd_pow_iff_le_right (by norm_num)).1 (hcop.dvd_of_dvd_mul_right (h ▸ Nat.dvd_mul_right _ _))
  obtain rfl : s = s' := Nat.le_antisymm (hle h hd') (hle h.symm hd)
  exact ⟨rfl, Nat.eq_of_mul_eq_mul_left (Nat.two_pow_pos s) h⟩

/-- For an odd number from 3 on: `n - 1` is `2^v2(n-1)` times an odd number, and `v2(n-1)` is not 0. -/
theorem sub_one_eq_two_pow_mul {n : Nat} (hn : 3 ≤ n) (hodd : n % 2 = 1) :
    n - 1 = 2 ^ v2 (n - 1) * ((n - 1) >>> v2 (n - 1)) ∧ (n - 1) >>> v2 (n - 1) % 2 = 1 ∧ 0 < v2 (n - 1) := by
  obtain ⟨hdvd, hodd'⟩ := v2_spec (v := n - 1) (by omega)
  have heq : n - 1 = 2 ^ v2 (n - 1) * ((n - 1) >>> v2 (n - 1)) := by
    rw [Nat.shiftRight_eq_div_pow, Nat.mul_div_cancel' hdvd]
  refine ⟨heq, hodd', Nat.pos_of_ne_zero fun h0 => ?_⟩
  rw [h0, Nat.shiftRight_zero] at hodd'
  omega

/-- `StrongProbablePrime` with the exponents that the round computes with. -/
theorem strongProbablePrime_iff {n : Nat} (hn : 3 ≤ n) (hodd : n % 2 = 1) (x : Nat) :
    StrongProbablePrime n x ↔ Nat.gcd x n = 1 ∧
      (x ^ ((n - 1) >>> v2 (n - 1)) % n = 1 ∨
        ∃ r, r < v2 (n - 1) ∧ x ^ (2 ^ r * ((n - 1) >>> v2 (n - 1))) % n = n - 1) := by
  obtain ⟨heq, hodd', -⟩ := sub_one_eq_two_pow_mul hn hodd
  refine and_congr_right fun _ => ⟨?_, fun h => ⟨_, _, heq, hodd', h⟩⟩
  rintro ⟨s, d, hsd, hd, h⟩
  obtain ⟨rfl, rfl⟩ := two_pow_mul_odd_unique (hsd.symm.trans heq) hd hodd'
  exact h

/-- The squarings of a round: they meet `n - 1`, unless they meet 1 before, after which they stay 1. -/
theorem squareUntil_iff {t : Table} {n : Nat} (ht : t.Holds n) (hn : 3 ≤ n) (hodd : n % 2 = 1) (k : Nat) {z : Nat}
    (hz : z < n) : squareUntil t n k z = true ↔ ∃ r, r < k ∧ z ^ 2 ^ (r + 1) % n = n - 1 := by
  induction k generalizing z with
  | zero => simp [squareUntil]
  | succ k ih =>
    have hsq : mulMont z z n t.msb = z ^ 2 % n := by rw [mulMont_odd_of_lt hodd (hz.trans ht.lt_two_pow), sq]
    have hlater (r : Nat) : z ^ 2 ^ (r + 1 + 1) % n = (z ^ 2 % n) ^ 2 ^ (r + 1) % n := by
      rw [← Nat.pow_mod, ← pow_mul, ← pow_succ']
    rw [squareUntil, hsq]
    split
    next hminus => exact iff_of_true rfl ⟨0, Nat.succ_pos k, hminus⟩
    next hminus =>
      split
      next hone =>
        refine iff_of_false Bool.false_ne_true ?_
        rintro ⟨r, -, hr⟩
        cases r with
        | zero => exact hminus hr
        | succ r => rw [hlater, hone, one_pow, Nat.mod_eq_of_lt (by omega)] at hr; omega
      next =>
        rw [ih (Nat.mod_lt _ ht.pos)]
        refine ⟨fun ⟨r, hr, h⟩ => ⟨r + 1, Nat.succ_lt_succ hr, (hlater r).trans h⟩, ?_⟩
        rintro ⟨r, hr, h⟩
        cases r with
        | zero => exact absurd h hminus
        | succ r => exact ⟨r, Nat.lt_of_succ_lt_succ hr, (hlater r).symm.trans h⟩

theorem msbOf_mono {v n : Nat} (h : v ≤ n) : msbOf v ≤ msbOf n := by
  obtain rfl | hv := Nat.eq_zero_or_pos v
  · exact Nat.zero_le _
  · exact (Nat.le_log2 (hv.trans_le h).ne').2 ((two_pow_msbOf_le hv.ne').trans h)

/-- The power that a round starts from. -/
theorem windowExp_tableOf {n x e : Nat} (hn : 3 ≤ n) (hl : n < 2 ^ 1024) (hodd : n % 2 = 1) (hx : x < n) (he : e < 2 ^ 1024) :
    windowExp (tableOf n) x e n = x ^ e % n :=
  (tableOf_holds (by omega) hl).windowExp_eq hodd
    ((msbOf_mono hx.le).trans (Nat.le_mul_of_pos_left _ two_pos)) he

/-! ## A Miller–Rabin round -/

/-- A round on an odd number accepts exactly the strong probable primes to its witness, and draws nothing (R151). -/
theorem millerRabinRound_odd {n x : Nat} (hn : 3 ≤ n) (hl : n < 2 ^ 1024) (hodd : n % 2 = 1) (hx : x < n) (d : Draws) :
    (millerRabinRound n x d).2 = d ∧ ((millerRabinRound n x d).1 = true ↔ StrongProbablePrime n x) := by
  obtain ⟨-, -, hpos⟩ := sub_one_eq_two_pow_mul hn hodd
  rw [strongProbablePrime_iff hn hodd]
  unfold millerRabinRound
  split
  next hgcd => exact ⟨rfl, iff_of_false Bool.false_ne_true fun h => hgcd h.1⟩
  next hgcd =>
    have hexp : (n - 1) >>> v2 (n - 1) < 2 ^ 1024 := (Nat.shiftRight_le _ _).trans_lt (by omega)
    dsimp only
    rw [expDraw_odd _ _ _ _ hodd, windowExp_tableOf hn hl hodd hx hexp]
    refine ⟨rfl, ?_⟩
    rw [Bool.or_eq_true, Bool.or_eq_true, decide_eq_true_iff, decide_eq_true_iff,
      squareUntil_iff (tableOf_holds (by omega) hl) hn hodd _ (Nat.mod_lt _ (by omega)), and_iff_right (not_not.1 hgcd),
      or_assoc]
    have hpow (r : Nat) : (x ^ ((n - 1) >>> v2 (n - 1)) % n) ^ 2 ^ r % n = x ^ (2 ^ r * ((n - 1) >>> v2 (n - 1))) % n := by
      rw [← Nat.pow_mod, ← pow_mul, mul_comm]
    refine or_congr_right ⟨?_, ?_⟩
    · rintro (h | ⟨r, hr, h⟩)
      · exact ⟨0, hpos, by rwa [← hpow, pow_zero, pow_one, Nat.mod_mod]⟩
      · exact ⟨r + 1, by omega, by rwa [← hpow]⟩
    · rintro ⟨r, hr, h⟩
      rw [← hpow] at h
      cases r with
      | zero => exact .inl (by rwa [pow_zero, pow_one, Nat.mod_mod] at h)
      | succ r => exact .inr ⟨r, by omega, h⟩

theorem millerRabin_succ (n k : Nat) (d : Draws) :
    millerRabin n (k + 1) d =
      if 1 < witnessOf n d ∧ witnessOf n d < n then
        if (millerRabinRound n (witnessOf n d) d.afterOneDraw).1 = true then
          millerRabin n k (millerRabinRound n (witnessOf n d) d.afterOneDraw).2
        else (.composite, (millerRabinRound n (witnessOf n d) d.afterOneDraw).2)
      else (.redraw (k + 1), d.afterOneDraw) := rfl

/-- A witness out of range is drawn again. -/
theorem millerRabin_out {n : Nat} {d : Draws} (k : Nat) (h : ¬ (1 < witnessOf n d ∧ witnessOf n d < n)) :
    millerRabin n (k + 1) d = (.redraw (k + 1), d.afterOneDraw) := by
  rw [millerRabin_succ, if_neg h]

section OddNumber

variable {n : Nat} (hn : 3 ≤ n) (hl : n < 2 ^ 1024) (hodd : n % 2 = 1) {d : Draws} (hlow : 1 < witnessOf n d)
  (hhigh : witnessOf n d < n) (k : Nat)
include hn hl hodd hlow hhigh

/-- A round that fails tells that the number is composite. -/
theorem millerRabin_fail (h : ¬ StrongProbablePrime n (witnessOf n d)) :
    millerRabin n (k + 1) d = (.composite, d.afterOneDraw) := by
  obtain ⟨hdraws, hround⟩ := millerRabinRound_odd hn hl hodd hhigh d.afterOneDraw
  rw [millerRabin_succ, if_pos ⟨hlow, hhigh⟩, if_neg (mt hround.1 h), hdraws]

/-- After a round that is passed the test goes on with one round less. -/
theorem millerRabin_pass (h : StrongProbablePrime n (witnessOf n d)) :
    millerRabin n (k + 1) d = millerRabin n k d.afterOneDraw := by
  obtain ⟨hdraws, hround⟩ := millerRabinRound_odd hn hl hodd hhigh d.afterOneDraw
  rw [millerRabin_succ, if_pos ⟨hlow, hhigh⟩, if_pos (hround.2 h), hdraws]

end OddNumber

/-- A witness with a common factor tells that the number, odd or even, is composite. -/
theorem millerRabin_of_gcd {n : Nat} {d : Draws} (hlow : 1 < witnessOf n d) (hhigh : witnessOf n d < n) (k : Nat)
    (h : Nat.gcd (witnessOf n d) n ≠ 1) : millerRabin n (k + 1) d = (.composite, d.afterOneDraw) := by
  have hround : millerRabinRound n (witnessOf n d) d.afterOneDraw = (false, d.afterOneDraw) := if_pos h
  rw [millerRabin_succ, if_pos ⟨hlow, hhigh⟩, hround, if_neg Bool.false_ne_true]

/-! ## MRTEST -/

/-- What MRTEST leaves at the end of the test. -/
def State.endMrtest (s : State) (rd : Reg) (b : Bool) (d : Draws) : State := (((s.closeTab rd).setTf b).setDraws d).finish

theorem resumeMrtest_eq (rd : Reg) (k : Nat) (s : State) :
    resumeMrtest rd k s =
      match millerRabin (s.x rd) k s.draws with
      | (.prime, d) => s.endMrtest rd true d
      | (.composite, d) => s.endMrtest rd false d
      | (.redraw k', d) => (s.setDraws d).keepRunning (.mrtest rd k') := by
  unfold resumeMrtest
  dsimp only
  rcases millerRabin (s.x rd) k s.draws with ⟨_ | _ | _, d⟩ <;> rfl

theorem resumeMrtest_prime {rd : Reg} {k : Nat} {s : State} {d : Draws} (h : millerRabin (s.x rd) k s.draws = (.prime, d)) :
    resumeMrtest rd k s = s.endMrtest rd true d := by rw [resumeMrtest_eq, h]

theorem resumeMrtest_composite {rd : Reg} {k : Nat} {s : State} {d : Draws}
    (h : millerRabin (s.x rd) k s.draws = (.composite, d)) : resumeMrtest rd k s = s.endMrtest rd false d := by
  rw [resumeMrtest_eq, h]

theorem resumeMrtest_redraw {rd : Reg} {k k' : Nat} {s : State} {d : Draws}
    (h : millerRabin (s.x rd) k s.draws = (.redraw k', d)) :
    resumeMrtest rd k s = (s.setDraws d).keepRunning (.mrtest rd k') := by rw [resumeMrtest_eq, h]

theorem setTab_setDraws (s : State) (r : Reg) (t : Table) (d : Draws) :
    (s.setDraws d).setTab r t = (s.setTab r t).setDraws d := by
  unfold State.setTab
  split <;> rfl

theorem openTab_setDraws (s : State) (r : Reg) (d : Draws) : (s.setDraws d).openTab r = (s.openTab r).setDraws d :=
  setTab_setDraws s r _ d

theorem endMrtest_setDraws (s : State) (rd : Reg) (b : Bool) (d d' : Draws) :
    (s.setDraws d).endMrtest rd b d' = s.endMrtest rd b d' := by
  have hclose : (s.setDraws d).closeTab rd = (s.closeTab rd).setDraws d := setTab_setDraws s rd _ d
  rw [State.endMrtest, hclose]
  rfl

/-- MRTEST goes by what is left of the stream and by its rounds only through the test's verdict. -/
theorem resumeMrtest_congr {rd : Reg} {k k' : Nat} {s : State} {d : Draws}
    (h : millerRabin (s.x rd) k s.draws = millerRabin (s.x rd) k' d) :
    resumeMrtest rd k s = resumeMrtest rd k' (s.setDraws d) := by
  rcases e : millerRabin (s.x rd) k' d with ⟨_ | _ | k'', d'⟩ <;> rw [e] at h
  · rw [resumeMrtest_prime h, resumeMrtest_prime (s := s.setDraws d) e, endMrtest_setDraws]
  · rw [resumeMrtest_composite h, resumeMrtest_composite (s := s.setDraws d) e, endMrtest_setDraws]
  · rw [resumeMrtest_redraw h, resumeMrtest_redraw (s := s.setDraws d) e]
    rfl

/-- MRTEST on operands it takes. -/
theorem exec_mrtest_completes {rd : Reg} {s : State} (k : Imm) (hrd : rd.toNat < 24) (hx : 3 ≤ s.x rd)
    (hact : s.tabActive rd = false) : exec (.mrtest rd k) s = .next (resumeMrtest rd k.toNat (s.openTab rd)) :=
  guarded_of_none (firstCause_three_none (not_isSingle_eq_false hrd) (decide_eq_false (Nat.not_lt.2 hx)) hact ..) ..

/-! ## What a command with a retry loop never changes -/

theorem resumeMrtest_frame (rd : Reg) (k : Nat) (s : State) :
    KeepsBytes s (resumeMrtest rd k s) 0 0 ∧ KeepsControlButBusy s (resumeMrtest rd k s) := by
  obtain ⟨b, d, e⟩ | ⟨k', d, -, -, e⟩ := resumeMrtest_cases rd k s <;> simp [e, KeepsBytes, KeepsControlButBusy]

theorem resumeMrtest_keepsTabs (rd : Reg) (k : Nat) (s : State) : KeepsTabs s (resumeMrtest rd k s) [rd] := by
  intro q hq
  obtain ⟨b, d, e⟩ | ⟨k', d, -, -, e⟩ := resumeMrtest_cases rd k s
  · rw [e, State.finish_tab, State.setDraws_tab, State.setTf_tab]
    exact (setTab_keeps_all_but_tab s rd _).2.2.1 q hq
  · simp [e]

theorem resumeGenprime_frame (rd : Reg) (c : Option Candidate) (s : State) :
    KeepsTabs s (resumeGenprime rd c s) [] ∧ KeepsBytes s (resumeGenprime rd c s) 0 0 ∧
      KeepsControlButBusy s (resumeGenprime rd c s) := by
  obtain ⟨p, -, e⟩ | ⟨c', -, e⟩ := resumeGenprime_cases rd c s <;> simp [e, KeepsTabs, KeepsBytes, KeepsControlButBusy]

theorem storePrimes_frame (dest : BlumDest) (p q : Nat) (s : State) :
    KeepsBytes s (storePrimes dest p q s) 0 0 ∧ KeepsControlButBusy s (storePrimes dest p q s) := by
  cases dest <;> simp [storePrimes, KeepsBytes, KeepsControlButBusy]

theorem resumeBlum_frame (dest : BlumDest) (f : Option Nat) (c : Option Candidate) (s : State) :
    KeepsBytes s (resumeBlum dest f c s) 0 0 ∧ KeepsControlButBusy s (resumeBlum dest f c s) := by
  obtain ⟨p, q, -, e⟩ | ⟨f', c', -, e⟩ := resumeBlum_cases dest f c s <;> rw [e]
  · exact storePrimes_frame dest p q s
  · simp [KeepsBytes, KeepsControlButBusy]

theorem storePrimes_keepsTabs {dest : BlumDest} (h : dest ≠ .keygen) (p q : Nat) (s : State) :
    KeepsTabs s (storePrimes dest p q s) [] := by
  cases dest with
  | keygen => exact absurd rfl h
  | _ => simp [storePrimes, KeepsTabs]

theorem resumeBlum_keepsTabs {dest : BlumDest} (h : dest ≠ .keygen) (f : Option Nat) (c : Option Candidate) (s : State) :
    KeepsTabs s (resumeBlum dest f c s) [] := by
  obtain ⟨p, q, -, e⟩ | ⟨f', c', -, e⟩ := resumeBlum_cases dest f c s <;> rw [e]
  · exact storePrimes_keepsTabs h p q s
  · simp [KeepsTabs]

theorem resumeSign_frame (a : Imm) (s : State) :
    KeepsTabs s (resumeSign a s) [] ∧ KeepsBytes s (resumeSign a s) 0 0 ∧ KeepsControlButBusy s (resumeSign a s) := by
  obtain ⟨v, b, d, e⟩ | ⟨d, e⟩ := resumeSign_cases a s <;> simp [e, KeepsTabs, KeepsBytes, KeepsControlButBusy]

/-! ## MRTEST -/

/-- What MRTEST leaves at its end: the table inactive, the verdict in TF, and BUSY 0. -/
theorem endMrtest_spec (s : State) (rd : Reg) (b : Bool) (d : Draws) :
    (s.endMrtest rd b d).tabActive rd = false ∧ (s.endMrtest rd b d).run = none ∧
      (s.endMrtest rd b d).flags = { s.flags with tf := b } ∧ (s.endMrtest rd b d).draws = d :=
  ⟨s.tabActive_closeTab_self rd, rfl, by simp [State.endMrtest], rfl⟩

theorem regLen_of_lt {r : Reg} (h : r.toNat < 24) : regLen r = 1024 := regLen_of_single ((isSingle_iff r).2 h)

theorem State.x_lt_of_lt (s : State) {r : Reg} (h : r.toNat < 24) : s.x r < 2 ^ 1024 := regLen_of_lt h ▸ s.x_lt r

theorem tabActive_openTab_self (s : State) {r : Reg} (h : r.toNat < 24) : (s.openTab r).tabActive r = true := by
  rw [State.tabActive, s.tab_openTab_self h, tableOf_active]

/-- Settles O42: MRTEST opens the table and tests as far as the first witness out of range. -/
theorem mrtestRunsMillerRabinRounds : Obligations.MrtestRunsMillerRabinRounds := by
  intro rd k s
  refine ⟨fun hwide => guarded_first ((not_isSingle_iff rd).2 hwide),
    fun hrd hx => guarded_second (not_isSingle_eq_false hrd) (decide_eq_true hx),
    fun hrd hx hact => guarded_third (not_isSingle_eq_false hrd) (decide_eq_false (Nat.not_lt.2 hx)) hact,
    fun hrd hx hact => ?_⟩
  have hl := s.x_lt_of_lt hrd
  have hrounds (hk : k ≠ 0) : k.toNat = (k - 1).toNat + 1 := by bv_omega
  have hopen : (s.openTab rd).x rd = s.x rd := s.openTab_x rd rd
  have hdraws : (s.openTab rd).draws = s.draws := s.openTab_draws rd
  have hflags : (s.openTab rd).flags = s.flags := s.openTab_flags rd
  obtain ⟨hbytes, hcontrol⟩ := resumeMrtest_frame rd k.toNat (s.openTab rd)
  refine ⟨_, exec_mrtest_completes k hrd hx hact, fun r _ => ?_, fun q hq => ?_, fun a ha => ?_, ?_, ?_, ?_, ?_, ?_, ?_⟩
  · rw [resumeMrtest_keepsRegs rd _ _ r List.not_mem_nil, State.openTab_x]
  · rw [resumeMrtest_keepsTabs rd _ _ q hq]
    exact (setTab_keeps_all_but_tab s rd _).2.2.1 q hq
  · rw [hbytes a ha, State.openTab_byte]
  · simpa [KeepsControlButBusy] using hcontrol
  · rintro rfl
    have e : millerRabin ((s.openTab rd).x rd) (0 : Imm).toNat (s.openTab rd).draws = (.prime, s.draws) := by rw [hdraws]; rfl
    rw [resumeMrtest_prime e]
    exact hflags ▸ endMrtest_spec (s.openTab rd) rd true s.draws
  · intro hk hout
    have e := millerRabin_out (k - 1).toNat hout
    rw [← hrounds hk] at e
    rw [resumeMrtest_redraw (by rw [hopen, hdraws]; exact e)]
    exact ⟨rfl, tabActive_openTab_self s hrd, hflags, rfl⟩
  · intro hk hlow hhigh hodd hnot
    have e := millerRabin_fail hx hl hodd hlow hhigh (k - 1).toNat hnot
    rw [← hrounds hk] at e
    rw [resumeMrtest_composite (by rw [hopen, hdraws]; exact e)]
    exact hflags ▸ endMrtest_spec (s.openTab rd) rd false _
  · intro hk hlow hhigh hodd hstrong
    have e := millerRabin_pass hx hl hodd hlow hhigh (k - 1).toNat hstrong
    rw [← hrounds hk] at e
    rw [resumeMrtest_congr (k' := (k - 1).toNat) (d := s.draws.afterOneDraw) (by rw [hopen, hdraws]; exact e),
      ← openTab_setDraws]
    exact exec_mrtest_completes (s := s.setDraws s.draws.afterOneDraw) (k - 1) hrd hx hact
  · intro hk hlow hhigh hgcd
    have e := millerRabin_of_gcd hlow hhigh (k - 1).toNat hgcd
    rw [← hrounds hk] at e
    rw [resumeMrtest_composite (by rw [hopen, hdraws]; exact e)]
    obtain ⟨htab, hrun, hfl, -⟩ := endMrtest_spec (s.openTab rd) rd false s.draws.afterOneDraw
    exact ⟨htab, hrun, hflags ▸ hfl⟩

/-! ## Primes pass -/

theorem natCast_eq_iff_mod {n a b : Nat} (hb : b < n) : (a : ZMod n) = (b : ZMod n) ↔ a % n = b := by
  rw [ZMod.natCast_eq_natCast_iff', Nat.mod_eq_of_lt hb]

/-- In a domain the square roots of 1 are 1 and -1: from `y^(2^s) = 1` the squarings either start from 1 or meet -1. -/
theorem eq_one_or_pow_eq_neg_one {R : Type} [CommRing R] [IsDomain R] {y : R} (s : Nat) (h : y ^ 2 ^ s = 1) :
    y = 1 ∨ ∃ r, r < s ∧ y ^ 2 ^ r = -1 := by
  induction s with
  | zero => exact .inl (by simpa using h)
  | succ s ih =>
    rw [pow_succ, pow_mul, sq_eq_one_iff] at h
    obtain h | h := h
    · exact (ih h).imp_right fun ⟨r, hr, e⟩ => ⟨r, hr.trans (Nat.lt_succ_self s), e⟩
    · exact .inr ⟨s, Nat.lt_succ_self s, h⟩

/-- A prime is a strong probable prime to every witness in range. -/
theorem strongProbablePrime_of_prime {n x : Nat} (hp : n.Prime) (hn : 3 ≤ n) (hlow : 1 < x) (hhigh : x < n) :
    StrongProbablePrime n x := by
  have : Fact n.Prime := ⟨hp⟩
  have hodd : n % 2 = 1 := Nat.odd_iff.1 (hp.odd_of_ne_two (by omega))
  obtain ⟨heq, -, -⟩ := sub_one_eq_two_pow_mul hn hodd
  have hx0 : (x : ZMod n) ≠ 0 := by
    rw [Ne, ZMod.natCast_eq_zero_iff]
    exact Nat.not_dvd_of_pos_of_lt (by omega) hhigh
  have hminus : ((n - 1 : Nat) : ZMod n) = -1 := by
    rw [Nat.cast_sub (by omega), ZMod.natCast_self, Nat.cast_one, zero_sub]
  have hfermat : ((x : ZMod n) ^ ((n - 1) >>> v2 (n - 1))) ^ 2 ^ v2 (n - 1) = 1 := by
    rw [← pow_mul, mul_comm, ← heq, ZMod.pow_card_sub_one_eq_one hx0]
  rw [strongProbablePrime_iff hn hodd]
  refine ⟨(hp.coprime_iff_not_dvd.2 (Nat.not_dvd_of_pos_of_lt (by omega) hhigh)).symm, ?_⟩
  obtain h | ⟨r, hr, h⟩ := eq_one_or_pow_eq_neg_one _ hfermat
  · refine .inl ((natCast_eq_iff_mod (by omega)).1 ?_)
    rw [Nat.cast_pow, Nat.cast_one, h]
  · refine .inr ⟨r, hr, (natCast_eq_iff_mod (by omega)).1 ?_⟩
    rw [Nat.cast_pow, hminus, mul_comm, pow_mul, h]

/-- Miller–Rabin never calls a prime composite. -/
theorem millerRabin_ne_composite {n : Nat} (hp : n.Prime) (hn : 3 ≤ n) (hl : n < 2 ^ 1024) (k : Nat) (d : Draws) :
    (millerRabin n k d).1 ≠ .composite := by
  induction k generalizing d with
  | zero => rw [millerRabin_zero]; exact nofun
  | succ k ih =>
    by_cases hin : 1 < witnessOf n d ∧ witnessOf n d < n
    · have hodd : n % 2 = 1 := Nat.odd_iff.1 (hp.odd_of_ne_two (by omega))
      rw [millerRabin_pass hn hl hodd hin.1 hin.2 k (strongProbablePrime_of_prime hp hn hin.1 hin.2)]
      exact ih _
    · rw [millerRabin_out k hin]
      exact nofun

/-- An MRTEST of a prime that is over has set TF. -/
theorem resumeMrtest_tf_of_prime {rd : Reg} {k : Nat} {s : State} (hrd : rd.toNat < 24) (hp : (s.x rd).Prime)
    (hx : 3 ≤ s.x rd) (hrun : (resumeMrtest rd k s).run = none) : (resumeMrtest rd k s).tf = true := by
  have hne := millerRabin_ne_composite hp hx (s.x_lt_of_lt hrd) k s.draws
  rcases e : millerRabin (s.x rd) k s.draws with ⟨_ | _ | k', d⟩ <;> rw [e] at hne
  · rw [resumeMrtest_prime e]
    rfl
  · exact absurd rfl hne
  · rw [resumeMrtest_redraw e] at hrun
    cases hrun

/-- Settles O43: by Fermat's theorem a prime passes the round of every witness. -/
theorem mrtestAcceptsEveryPrime : Obligations.MrtestAcceptsEveryPrime := by
  refine ⟨fun rd k s t hrd hact hp hx hexec hrun => ?_, fun rd k s hrd hrun hp hx hend => ?_⟩
  · rw [exec_mrtest_completes k hrd hx hact] at hexec
    cases hexec
    exact resumeMrtest_tf_of_prime (s := s.openTab rd) hrd (by rwa [State.openTab_x]) (by rwa [State.openTab_x]) hrun
  · rw [coreWork_of_run hrun] at hend ⊢
    exact resumeMrtest_tf_of_prime hrd hp hx hend

/-! ## The search loops -/

theorem afterOneDraw_eq (d : Draws) : (randFill Config.lenS d).2 = d.afterOneDraw := rfl

/-- The bits of a full-width candidate between the two that are forced. -/
theorem candidateOf_full_testBit (v : Nat) {j : Nat} (h0 : 0 < j) (hj : j < 1023) :
    (candidateOf .full v).testBit j = v.testBit j := by
  rw [candidateOf_full, Nat.testBit_or, Nat.testBit_or, Nat.testBit_two_pow_of_ne (by omega),
    show (1 : Nat) = 2 ^ 0 from rfl, Nat.testBit_two_pow_of_ne h0.ne, Bool.or_false, Bool.or_false]

/-- The bits of a half-width candidate below the one that is forced. -/
theorem candidateOf_half_testBit (v : Nat) {j : Nat} (hj : j < 511) : (candidateOf .half v).testBit j = v.testBit j := by
  rw [candidateOf_half, Nat.testBit_or, Nat.testBit_two_pow_of_ne (by omega), Nat.testBit_mod_two_pow, Bool.or_false,
    decide_eq_true (by omega), Bool.true_and]

/-- The search for a prime from a fresh draw. -/
theorem searchPrime_none (kind : PrimeKind) (d : Draws) :
    searchPrime kind none d =
      if screened kind (candidateOf kind (randFill 1024 d).1) then
        testCandidate { value := candidateOf kind (randFill 1024 d).1, rounds := 3 } d.afterOneDraw
      else (.retry none, d.afterOneDraw) := rfl

/-- The test of a candidate goes by the verdict on it. -/
theorem testCandidate_eq (n k : Nat) (d : Draws) :
    testCandidate { value := n, rounds := k } d =
      match millerRabin n k d with
      | (.prime, d') => (.found n, d')
      | (.composite, d') => (.retry none, d')
      | (.redraw j, d') => (.retry (some { value := n, rounds := j }), d') := by
  unfold testCandidate
  dsimp only
  rcases millerRabin n k d with ⟨_ | _ | _, d'⟩ <;> rfl

/-- Settles O44: each outcome of a round, of an attempt and of the search for a pair, from its equation. -/
theorem primeSearchFollowsTheRetryLoop : Obligations.PrimeSearchFollowsTheRetryLoop := by
  refine ⟨fun n k d hn hl hodd => ⟨rfl, millerRabin_out k, fun hlow hhigh => millerRabin_fail hn hl hodd hlow hhigh k,
    fun hlow hhigh => millerRabin_pass hn hl hodd hlow hhigh k⟩, fun r c d d' => ⟨fun q e => ?_, fun c' e => ?_⟩, ?_⟩
  · rw [searchPair_some, searchSecond_eq, searchPair_none, e]
    exact ⟨rfl, rfl⟩
  · rw [searchPair_some, searchSecond_eq, searchPair_none, e]
    exact ⟨rfl, rfl⟩
  intro kind d
  have hv : (randFill 1024 d).1 < 2 ^ 1024 := randFill_lt d
  refine ⟨?_, ?_, fun h => h ▸ rfl, fun h => h ▸ rfl, fun h => ?_, fun h => ?_, fun n k d' => ?_⟩
  · rintro rfl
    obtain ⟨hlow, hhigh, hodd⟩ := or_top_or_one (n := 1023) hv
    exact ⟨hodd, hlow, hhigh, fun j => candidateOf_full_testBit _⟩
  · rintro rfl
    obtain ⟨hlow, hhigh⟩ := mod_or_top (randFill 1024 d).1 511
    exact ⟨hlow, hhigh, fun j => candidateOf_half_testBit _⟩
  · rw [searchPrime_none, if_neg (by rw [h]; exact Bool.false_ne_true)]
  · rw [searchPrime_none, if_pos h]
    rfl
  · have e : searchPrime kind (some { value := n, rounds := k }) d = testCandidate { value := n, rounds := k } d := rfl
    rw [e, testCandidate_eq]
    rcases millerRabin n k d with ⟨v, d''⟩
    refine ⟨?_, ?_, ?_⟩
    · rintro rfl rfl; rfl
    · rintro rfl rfl; rfl
    · rintro j rfl rfl; rfl

end Sys2Proof.Machine
end

section
/-! PROOFS. The statements of spec/44_primality_generation.md about GENPRIME, GENBLUM and GENBLUMN (R153, R155, R156) and
about the values they and KEYGEN leave after any number of retries (R159). -/

namespace Sys2Proof.Machine

/-! ## The values that the commands write -/

/-- GENPRIME that ends writes the value found whole. -/
theorem resumeGenprime_found {rd : Reg} {c : Option Candidate} {s : State} {p : Nat} (hrd : rd.toNat < 24)
    (hp : p < 2 ^ 1024) (h : (searchPrime .full c s.draws).1 = .found p) :
    (resumeGenprime rd c s).x rd = p ∧ (resumeGenprime rd c s).run = none := by
  obtain ⟨p', hp', e⟩ | ⟨c', hc', -⟩ := resumeGenprime_cases rd c s
  · cases h.symm.trans hp'
    rw [e, State.finish_x, State.setDraws_x, State.x_setX_self, regLen_of_lt hrd, Nat.mod_eq_of_lt hp]
    exact ⟨rfl, rfl⟩
  · cases h.symm.trans hc'

theorem resumeGenprime_retry {rd : Reg} {c c' : Option Candidate} {s : State}
    (h : (searchPrime .full c s.draws).1 = .retry c') :
    (resumeGenprime rd c s).run = some (.genprime rd c') ∧ KeepsRegs s (resumeGenprime rd c s) [] := by
  obtain ⟨p', hp', -⟩ | ⟨c'', hc', e⟩ := resumeGenprime_cases rd c s
  · cases h.symm.trans hp'
  · cases h.symm.trans hc'
    rw [e]
    exact ⟨rfl, fun r _ => by simp⟩

theorem resumeGenprime_draws (rd : Reg) (c : Option Candidate) (s : State) :
    (resumeGenprime rd c s).draws = (searchPrime .full c s.draws).2 := by
  obtain ⟨p, -, e⟩ | ⟨c', -, e⟩ := resumeGenprime_cases rd c s <;> rw [e] <;> rfl

/-- What GENBLUM and GENBLUMN leave in their registers. -/
theorem storePrimes_genblum_x {rd ra rb : Reg} (hda : rd ≠ ra) (hdb : rd ≠ rb) (hab : ra ≠ rb) (hrd : rd.toNat < 24)
    (hra : ra.toNat < 24) (hrb : rb.toNat < 24) (s : State) {p q : Nat} (hp : HalfShape p) (hq : HalfShape q) :
    (storePrimes (.genblum rd ra rb) p q s).x ra = p ∧ (storePrimes (.genblum rd ra rb) p q s).x rb = q ∧
      (storePrimes (.genblum rd ra rb) p q s).x rd = p * q := by
  simp only [storePrimes]
  rw [State.x_setX_ne _ _ hda.symm, State.x_setX_ne _ _ hab, State.x_setX_ne _ _ hdb.symm, State.x_setX_self,
    State.x_setX_self, State.x_setX_self, regLen_of_lt hrd, regLen_of_lt hra, regLen_of_lt hrb, Nat.mod_eq_of_lt hp.lt,
    Nat.mod_eq_of_lt hq.lt, Nat.mod_eq_of_lt (hp.mul_bounds hq).2]
  exact ⟨rfl, rfl, rfl⟩

theorem storePrimes_genblumn_x {rd : Reg} (hrd : rd.toNat < 24) (s : State) {p q : Nat} (hp : HalfShape p)
    (hq : HalfShape q) : (storePrimes (.genblumn rd) p q s).x rd = p * q := by
  simp only [storePrimes]
  rw [State.x_setX_self, regLen_of_lt hrd, Nat.mod_eq_of_lt (hp.mul_bounds hq).2]

theorem resumeBlum_found {dest : BlumDest} {f : Option Nat} {c : Option Candidate} {s : State} {p q : Nat}
    (h : (searchPair f c s.draws).1 = .found p q) :
    resumeBlum dest f c s = ((storePrimes dest p q s).setDraws (searchPair f c s.draws).2).finish := by
  obtain ⟨p', q', h', e⟩ | ⟨f', c', h', -⟩ := resumeBlum_cases dest f c s
  · cases h.symm.trans h'
    exact e
  · cases h.symm.trans h'

theorem resumeBlum_retry {dest : BlumDest} {f f' : Option Nat} {c c' : Option Candidate} {s : State}
    (h : (searchPair f c s.draws).1 = .retry f' c') :
    resumeBlum dest f c s = (s.setDraws (searchPair f c s.draws).2).keepRunning (.blum dest f' c') := by
  obtain ⟨p', q', h', -⟩ | ⟨f'', c'', h', e⟩ := resumeBlum_cases dest f c s
  · cases h.symm.trans h'
  · cases h.symm.trans h'
    exact e

theorem resumeBlum_draws (dest : BlumDest) (f : Option Nat) (c : Option Candidate) (s : State) :
    (resumeBlum dest f c s).draws = (searchPair f c s.draws).2 := by
  obtain ⟨p, q, -, e⟩ | ⟨f', c', -, e⟩ := resumeBlum_cases dest f c s <;> rw [e] <;> rfl

/-- A search for a pair that ends the command has found one. -/
theorem found_of_resumeBlum_run {dest : BlumDest} {f : Option Nat} {c : Option Candidate} {s : State}
    (h : (resumeBlum dest f c s).run = none) : ∃ p q, (searchPair f c s.draws).1 = .found p q := by
  obtain ⟨p, q, hfound, -⟩ | ⟨f', c', -, e⟩ := resumeBlum_cases dest f c s
  · exact ⟨p, q, hfound⟩
  · rw [e] at h
    cases h

/-! ## GENPRIME -/

theorem exec_genprime_completes {rd : Reg} {s : State} (hrd : rd.toNat < 24) (hact : s.tabActive rd = false) :
    exec (.genprime rd) s = .next (resumeGenprime rd none s) :=
  guarded_of_none (firstCause_two_none (not_isSingle_eq_false hrd) hact ..) ..

theorem candidateOk_none (shape : Nat → Prop) : CandidateOk shape none := trivial

/-- Settles O45: the command does what its search tells. -/
theorem genprimeWritesTheFoundPrime : Obligations.GenprimeWritesTheFoundPrime := by
  refine fun rd s => ⟨fun hwide => guarded_first ((not_isSingle_iff rd).2 hwide),
    fun hrd hact => guarded_second (not_isSingle_eq_false hrd) hact,
    fun hrd hact => ⟨_, exec_genprime_completes hrd hact, fun p hp => ?_, fun c hc => resumeGenprime_retry hc,
      resumeGenprime_draws rd none s, resumeGenprime_flags rd none s, resumeGenprime_frame rd none s⟩⟩
  have hshape : FullShape p := (searchPrime_shape (kind := .full) (candidateOk_none _) s.draws).1 p hp
  obtain ⟨hx, hrun⟩ := resumeGenprime_found hrd hshape.2.1 hp
  exact ⟨hx, hshape, hrun, resumeGenprime_keepsRegs rd none s⟩

/-! ## GENBLUM and GENBLUMN -/

theorem exec_genblumn_completes {rd : Reg} {s : State} (hrd : rd.toNat < 24) (hact : s.tabActive rd = false) :
    exec (.genblumn rd) s = .next (resumeBlum (.genblumn rd) none none s) :=
  guarded_of_none (firstCause_two_none (not_isSingle_eq_false hrd) hact ..) ..

theorem anyWide_three_eq_false {r r' r'' : Reg} (h : r.toNat < 24) (h' : r'.toNat < 24) (h'' : r''.toNat < 24) :
    (!isSingle r || !isSingle r' || !isSingle r'') = false := by
  rw [not_isSingle_eq_false h, not_isSingle_eq_false h', not_isSingle_eq_false h'']
  rfl

theorem exec_genblum_completes {rd ra rb : Reg} {s : State} (hrd : rd.toNat < 24) (hra : ra.toNat < 24)
    (hrb : rb.toNat < 24) (hactd : s.tabActive rd = false) (hacta : s.tabActive ra = false) (hactb : s.tabActive rb = false) :
    exec (.genblum rd ra rb) s = .next (resumeBlum (.genblum rd ra rb) none none s) :=
  guarded_of_none (firstCause_two_none (anyWide_three_eq_false hrd hra hrb) (by rw [hactd, hacta, hactb]; rfl) ..) ..

/-- The shape of a pair found from a fresh start. -/
theorem searchPair_fresh_shape {d : Draws} {p q : Nat} (h : (searchPair none none d).1 = .found p q) :
    HalfShape p ∧ HalfShape q :=
  (searchPair_shape (f := none) trivial (candidateOk_none _) d).1 p q h

theorem resumeBlum_retry_spec {dest : BlumDest} {f f' : Option Nat} {c c' : Option Candidate} {s : State}
    (h : (searchPair f c s.draws).1 = .retry f' c') :
    (resumeBlum dest f c s).run = some (.blum dest f' c') ∧ KeepsRegs s (resumeBlum dest f c s) [] := by
  rw [resumeBlum_retry h]
  exact ⟨rfl, fun r _ => by simp⟩

theorem resumeBlum_found_x {dest : BlumDest} {f : Option Nat} {c : Option Candidate} {s : State} {p q : Nat}
    (h : (searchPair f c s.draws).1 = .found p q) (r : Reg) :
    (resumeBlum dest f c s).x r = (storePrimes dest p q s).x r ∧ (resumeBlum dest f c s).run = none := by
  rw [resumeBlum_found h]
  exact ⟨by simp, rfl⟩

/-- Settles O46: both commands do what the one search tells. -/
theorem genblumWritesTheProductOfTwoPrimes : Obligations.GenblumWritesTheProductOfTwoPrimes := by
  refine ⟨fun rd s => ⟨fun hwide => guarded_first ((not_isSingle_iff rd).2 hwide),
    fun hrd hact => guarded_second (not_isSingle_eq_false hrd) hact, fun hrd hact =>
      ⟨_, exec_genblumn_completes hrd hact, fun p q h => ?_, fun f c h => resumeBlum_retry_spec h, resumeBlum_draws ..,
        resumeBlum_flags (by simp) .., resumeBlum_keepsTabs (by simp) none none s, resumeBlum_frame ..⟩⟩,
    fun rd ra rb s hda hdb hab => ⟨fun hwide => guarded_first ((anyWide_three_iff rd ra rb).2 hwide),
      fun hrd hra hrb hact => guarded_second (anyWide_three_eq_false hrd hra hrb) ((anyTabActive_iff s rd ra rb).2 hact),
      fun hrd hra hrb hactd hacta hactb =>
      ⟨_, exec_genblum_completes hrd hra hrb hactd hacta hactb, fun p q h => ?_, fun f c h => resumeBlum_retry_spec h,
        resumeBlum_draws .., resumeBlum_flags (by simp) .., resumeBlum_keepsTabs (by simp) none none s, (resumeBlum_frame ..).1,
        (resumeBlum_frame ..).2, fun u hu => ?_⟩⟩⟩
  · obtain ⟨hp, hq⟩ := searchPair_fresh_shape h
    obtain ⟨hx, hrun⟩ := resumeBlum_found_x (dest := .genblumn rd) h rd
    rw [storePrimes_genblumn_x hrd s hp hq] at hx
    rw [hx]
    exact ⟨hp, hq, rfl, (hp.mul_bounds hq).1, hrun, resumeBlum_keepsRegs (.genblumn rd) none none s⟩
  · obtain ⟨hp, hq⟩ := searchPair_fresh_shape h
    have hx := fun r => (resumeBlum_found_x (dest := .genblum rd ra rb) h r).1
    obtain ⟨hxa, hxb, hxd⟩ := storePrimes_genblum_x hda hdb hab hrd hra hrb s hp hq
    rw [hx, hx, hx, hxa, hxb, hxd]
    exact ⟨hp, hq, rfl, rfl, rfl, (hp.mul_bounds hq).1, (resumeBlum_found_x h rd).2,
      resumeBlum_keepsRegs (.genblum rd ra rb) none none s⟩
  · rw [exec_genblumn_completes hrd hactd] at hu
    cases hu
    refine ⟨by rw [resumeBlum_draws, resumeBlum_draws], fun hrun => ?_⟩
    obtain ⟨p, q, h⟩ := found_of_resumeBlum_run hrun
    obtain ⟨hp, hq⟩ := searchPair_fresh_shape h
    obtain ⟨hx, -⟩ := resumeBlum_found_x (dest := .genblumn rd) h rd
    obtain ⟨hx', hrun'⟩ := resumeBlum_found_x (dest := .genblum rd ra rb) h rd
    rw [hx, hx', storePrimes_genblumn_x hrd s hp hq, (storePrimes_genblum_x hda hdb hab hrd hra hrb s hp hq).2.2]
    exact ⟨hrun', rfl⟩

/-! ## The history of a search -/

/-- What is left of the stream after some draws of single-width values. -/
def Draws.After (d d' : Draws) : Prop := ∃ m : Nat, d' = Draws.afterOneDraw^[m] d

theorem Draws.After.refl (d : Draws) : d.After d := ⟨0, rfl⟩

theorem Draws.After.trans {d d' d'' : Draws} (h : d.After d') (h' : d'.After d'') : d.After d'' := by
  obtain ⟨m, rfl⟩ := h
  obtain ⟨m', rfl⟩ := h'
  exact ⟨m' + m, (Function.iterate_add_apply ..).symm⟩

theorem Draws.After.one (d : Draws) : d.After d.afterOneDraw := ⟨1, rfl⟩

/-- The rounds of Miller–Rabin on an odd number as far as the next retry: accepted, the rounds are passed; to be redrawn, the
rounds that are left complete them. -/
theorem millerRabin_passed {n : Nat} (hn : 3 ≤ n) (hl : n < 2 ^ 1024) (hodd : n % 2 = 1) (k : Nat) (d : Draws) :
    d.After (millerRabin n k d).2 ∧
      ((millerRabin n k d).1 = .prime → PassedRounds n k d (millerRabin n k d).2) ∧
      ∀ j, (millerRabin n k d).1 = .redraw j →
        ∀ d', PassedRounds n j (millerRabin n k d).2 d' → PassedRounds n k d d' := by
  induction k generalizing d with
  | zero => exact ⟨.refl d, fun _ => .done d, nofun⟩
  | succ k ih =>
    by_cases hin : 1 < witnessOf n d ∧ witnessOf n d < n
    · obtain ⟨hlow, hhigh⟩ := hin
      by_cases hstrong : StrongProbablePrime n (witnessOf n d)
      · rw [millerRabin_pass hn hl hodd hlow hhigh k hstrong]
        obtain ⟨hafter, hprime, hredraw⟩ := ih d.afterOneDraw
        exact ⟨.trans (.one d) hafter, fun h => .round hlow hhigh hstrong (hprime h),
          fun j h d' h' => .round hlow hhigh hstrong (hredraw j h d' h')⟩
      · rw [millerRabin_fail hn hl hodd hlow hhigh k hstrong]
        exact ⟨.one d, nofun, nofun⟩
    · rw [millerRabin_out k hin]
      exact ⟨.one d, nofun, fun j h d' h' => by cases h; exact .redraw hin h'⟩

/-- The candidate at hand, if any, was drawn after some draws from `d₀` and passes the screen, and passing the rounds that it
has left from `d` on completes its three rounds. -/
def CandidateFrom (kind : PrimeKind) (d₀ : Draws) (cand : Option Candidate) (d : Draws) : Prop :=
  d₀.After d ∧ ∀ c, cand = some c → ∃ e, d₀.After e ∧ c.value = candidateOf kind (randFill Config.lenS e).1 ∧
    screened kind c.value = true ∧
    ∀ d', PassedRounds c.value c.rounds d d' → PassedRounds c.value Config.mrGenRounds e.afterOneDraw d'

theorem candidateFrom_none {kind : PrimeKind} {d₀ d : Draws} (h : d₀.After d) : CandidateFrom kind d₀ none d := ⟨h, nofun⟩

theorem shapeOf_bounds {kind : PrimeKind} {v : Nat} (h : shapeOf kind v) : 3 ≤ v ∧ v < 2 ^ 1024 ∧ v % 2 = 1 := by
  cases kind with
  | full =>
    obtain ⟨hlow, hhigh, hodd, -⟩ := h
    exact ⟨le_trans (show 3 ≤ 2 ^ 2 by decide) ((Nat.pow_le_pow_right two_pos (by decide)).trans hlow), hhigh, hodd⟩
  | half =>
    have hodd : v % 4 = 3 := h.2.2.1
    exact ⟨by omega, HalfShape.lt h, by omega⟩

theorem shapeOf_generated {kind : PrimeKind} {v : Nat} {d d' : Draws} (h : Generated kind v d d') : shapeOf kind v := by
  obtain ⟨rfl, hscreen, -⟩ := h
  exact shapeOf_of_screened (randFill_lt d) hscreen

theorem GeneratedFrom.shape {kind : PrimeKind} {v : Nat} {d d' : Draws} (h : GeneratedFrom kind v d d') : shapeOf kind v :=
  h.elim fun _ => shapeOf_generated

/-- The test of a candidate keeps its history. -/
theorem testCandidate_history {kind : PrimeKind} {d₀ d : Draws} {c : Candidate} (h : CandidateFrom kind d₀ (some c) d) :
    (∀ p, (testCandidate c d).1 = .found p → GeneratedFrom kind p d₀ (testCandidate c d).2) ∧
      ∀ c', (testCandidate c d).1 = .retry c' → CandidateFrom kind d₀ c' (testCandidate c d).2 := by
  obtain ⟨hd, hcand⟩ := h
  obtain ⟨e, ⟨m, rfl⟩, hvalue, hscreen, hrounds⟩ := hcand c rfl
  have hshape : shapeOf kind c.value := hvalue ▸ shapeOf_of_screened (randFill_lt _) (hvalue ▸ hscreen)
  obtain ⟨hn, hl, hodd⟩ := shapeOf_bounds hshape
  obtain ⟨hafter, hprime, hredraw⟩ := millerRabin_passed hn hl hodd c.rounds d
  rw [testCandidate_eq c.value c.rounds d]
  rcases e : millerRabin c.value c.rounds d with ⟨_ | _ | j, d'⟩ <;> rw [e] at hafter hprime hredraw
  · exact ⟨fun p hp => by cases hp; exact ⟨m, hvalue, hscreen, hrounds _ (hprime rfl)⟩, nofun⟩
  · exact ⟨nofun, fun c' hc' => by cases hc'; exact candidateFrom_none (hd.trans hafter)⟩
  · refine ⟨nofun, fun c' hc' => ?_⟩
    cases hc'
    refine ⟨hd.trans hafter, fun c' hc' => ?_⟩
    cases hc'
    exact ⟨_, ⟨m, rfl⟩, hvalue, hscreen, fun d'' h => hrounds _ (hredraw j rfl d'' h)⟩

/-- The search for one prime keeps the history of its candidate. -/
theorem searchPrime_history {kind : PrimeKind} {d₀ d : Draws} {cand : Option Candidate} (h : CandidateFrom kind d₀ cand d) :
    (∀ p, (searchPrime kind cand d).1 = .found p → GeneratedFrom kind p d₀ (searchPrime kind cand d).2) ∧
      ∀ c, (searchPrime kind cand d).1 = .retry c → CandidateFrom kind d₀ c (searchPrime kind cand d).2 := by
  cases cand with
  | some c => exact testCandidate_history h
  | none =>
    have hnext := h.1.trans (.one d)
    rw [searchPrime_none]
    split
    next hscreen =>
      refine testCandidate_history ⟨hnext, fun c hc => ?_⟩
      cases hc
      exact ⟨d, h.1, rfl, hscreen, fun _ => id⟩
    next => exact ⟨nofun, fun c hc => by cases hc; exact candidateFrom_none hnext⟩

/-- The first prime, if it is found, was generated from `d₀` on, and the candidate for the second after it. -/
def PairFrom (d₀ : Draws) (first : Option Nat) (cand : Option Candidate) (d : Draws) : Prop :=
  match first with
  | none => CandidateFrom .half d₀ cand d
  | some r => ∃ d₁, GeneratedFrom .half r d₀ d₁ ∧ CandidateFrom .half d₁ cand d

/-- Two primes generated one after the other. -/
def PairGenerated (p q : Nat) (d₀ d : Draws) : Prop := ∃ d₁, GeneratedFrom .half p d₀ d₁ ∧ GeneratedFrom .half q d₁ d

theorem searchSecond_history {r : Nat} {d₀ d₁ d : Draws} {cand : Option Candidate} (hr : GeneratedFrom .half r d₀ d₁)
    (h : CandidateFrom .half d₁ cand d) :
    (∀ p q, (searchSecond r cand d).1 = .found p q → PairGenerated p q d₀ (searchSecond r cand d).2) ∧
      ∀ f c, (searchSecond r cand d).1 = .retry f c → PairFrom d₀ f c (searchSecond r cand d).2 := by
  obtain ⟨hfound, hretry⟩ := searchPrime_history h
  rw [searchSecond_eq]
  rcases e : searchPrime .half cand d with ⟨q | c', d'⟩ <;> rw [e] at hfound hretry
  · exact ⟨fun p' q' e' => by cases e'; exact ⟨d₁, hr, hfound q rfl⟩, nofun⟩
  · exact ⟨nofun, fun f' c'' e' => by cases e'; exact ⟨d₁, hr, hretry c' rfl⟩⟩

/-- The search for a pair keeps the history of its primes. -/
theorem searchPair_history {d₀ d : Draws} {first : Option Nat} {cand : Option Candidate} (h : PairFrom d₀ first cand d) :
    (∀ p q, (searchPair first cand d).1 = .found p q → PairGenerated p q d₀ (searchPair first cand d).2) ∧
      ∀ f c, (searchPair first cand d).1 = .retry f c → PairFrom d₀ f c (searchPair first cand d).2 := by
  cases first with
  | some r =>
    obtain ⟨d₁, hr, hc⟩ := h
    exact searchSecond_history hr hc
  | none =>
    obtain ⟨hfound, hretry⟩ := searchPrime_history h
    rw [searchPair_none]
    rcases e : searchPrime .half cand d with ⟨r | c', d'⟩ <;> rw [e] at hfound hretry
    · exact searchSecond_history (hfound r rfl) (candidateFrom_none (.refl d'))
    · exact ⟨nofun, fun f' c'' e' => by cases e'; exact hretry c' rfl⟩

/-! ## The history of a command -/

/-- A GENPRIME on its way, or over with a generated value in its register. -/
def GenprimeFrom (rd : Reg) (d₀ : Draws) (s : State) : Prop :=
  (∃ c, s.run = some (.genprime rd c) ∧ CandidateFrom .full d₀ c s.draws) ∨
    (s.run = none ∧ GeneratedFrom .full (s.x rd) d₀ s.draws)

theorem resumeGenprime_history {rd : Reg} (hrd : rd.toNat < 24) {d₀ : Draws} {c : Option Candidate} {s : State}
    (h : CandidateFrom .full d₀ c s.draws) : GenprimeFrom rd d₀ (resumeGenprime rd c s) := by
  obtain ⟨hfound, hretry⟩ := searchPrime_history h
  rw [GenprimeFrom, resumeGenprime_draws]
  cases e : (searchPrime .full c s.draws).1 with
  | found p =>
    have hp := hfound p e
    obtain ⟨hx, hrun⟩ := resumeGenprime_found hrd hp.shape.2.1 e
    exact .inr ⟨hrun, hx.symm ▸ hp⟩
  | retry c' => exact .inl ⟨c', (resumeGenprime_retry e).1, hretry c' e⟩

theorem GenprimeFrom.coreWork {rd : Reg} (hrd : rd.toNat < 24) {d₀ : Draws} {s : State} (h : GenprimeFrom rd d₀ s) :
    GenprimeFrom rd d₀ (coreWork s) := by
  obtain ⟨c, hrun, hc⟩ | ⟨hrun, hx⟩ := id h
  · rw [coreWork_of_run hrun]
    exact resumeGenprime_history hrd hc
  · rwa [coreWork_of_idle hrun]

/-- A command for two primes on its way, or over with a generated pair stored. -/
def BlumFrom (dest : BlumDest) (d₀ : Draws) (s : State) : Prop :=
  (∃ f c, s.run = some (.blum dest f c) ∧ PairFrom d₀ f c s.draws) ∨
    (s.run = none ∧ ∃ p q, PairGenerated p q d₀ s.draws ∧ ∃ u, ∀ r, s.x r = (storePrimes dest p q u).x r)

theorem resumeBlum_history {dest : BlumDest} {d₀ : Draws} {f : Option Nat} {c : Option Candidate} {s : State}
    (h : PairFrom d₀ f c s.draws) : BlumFrom dest d₀ (resumeBlum dest f c s) := by
  obtain ⟨hfound, hretry⟩ := searchPair_history h
  rw [BlumFrom, resumeBlum_draws]
  cases e : (searchPair f c s.draws).1 with
  | found p q =>
    refine .inr ⟨(resumeBlum_found_x e 0).2, p, q, hfound p q e, s, fun r => (resumeBlum_found_x e r).1⟩
  | retry f' c' => exact .inl ⟨f', c', (resumeBlum_retry_spec e).1, hretry f' c' e⟩

theorem BlumFrom.coreWork {dest : BlumDest} {d₀ : Draws} {s : State} (h : BlumFrom dest d₀ s) :
    BlumFrom dest d₀ (coreWork s) := by
  obtain ⟨f, c, hrun, hc⟩ | ⟨hrun, -⟩ := id h
  · rw [coreWork_of_run hrun]
    exact resumeBlum_history hc
  · rwa [coreWork_of_idle hrun]

/-- A fresh search for a pair, after any number of turns, if it is over. -/
theorem resumeBlum_turns {dest : BlumDest} {s : State} (m : Nat)
    (hend : (coreWork^[m] (resumeBlum dest none none s)).run = none) :
    ∃ p q, PairGenerated p q s.draws (coreWork^[m] (resumeBlum dest none none s)).draws ∧
      ∃ u, ∀ r, (coreWork^[m] (resumeBlum dest none none s)).x r = (storePrimes dest p q u).x r := by
  have hstart : BlumFrom dest s.draws (resumeBlum dest none none s) :=
    resumeBlum_history (f := none) (candidateFrom_none (.refl _))
  obtain ⟨f, c, hrun, -⟩ | ⟨-, h⟩ := Function.Iterate.rec (BlumFrom dest s.draws) hstart (fun _ h => BlumFrom.coreWork h) m
  · cases hend.symm.trans hrun
  · exact h

theorem resumeGenprime_turns {rd : Reg} (hrd : rd.toNat < 24) {s : State} (m : Nat)
    (hend : (coreWork^[m] (resumeGenprime rd none s)).run = none) :
    GeneratedFrom .full ((coreWork^[m] (resumeGenprime rd none s)).x rd) s.draws
      (coreWork^[m] (resumeGenprime rd none s)).draws := by
  have hstart : GenprimeFrom rd s.draws (resumeGenprime rd none s) :=
    resumeGenprime_history hrd (candidateFrom_none (.refl _))
  obtain ⟨c, hrun, -⟩ | ⟨-, h⟩ :=
    Function.Iterate.rec (GenprimeFrom rd s.draws) hstart (fun _ h => GenprimeFrom.coreWork hrd h) m
  · cases hend.symm.trans hrun
  · exact h

theorem PairGenerated.shapes {p q : Nat} {d d' : Draws} (h : PairGenerated p q d d') : HalfShape p ∧ HalfShape q :=
  h.elim fun _ ⟨hp, hq⟩ => ⟨hp.shape, hq.shape⟩

/-! ## What the commands leave at their end -/

theorem exec_keygen_completes {s : State} (hp : s.pstate = .uninitialized ∨ s.pstate = .finalized)
    (hn : s.tabActive regKN = false) (hkp : s.tabActive regKP = false) (hkq : s.tabActive regKQ = false) :
    exec .keygen s = .next (resumeBlum .keygen none none s) := by
  refine guarded_of_none (firstCause_two_none ?_ (by rw [hn, hkp, hkq]; rfl) ..) ..
  obtain h | h := hp <;> rw [h] <;> rfl

/-- A running command for two primes that ends leaves primes of the promised shape. -/
theorem resumeBlum_end {dest : BlumDest} {f : Option Nat} {c : Option Candidate} {s : State} (hf : FirstOk f)
    (hc : CandidateOk HalfShape c) (hend : (resumeBlum dest f c s).run = none) :
    ∃ p q, HalfShape p ∧ HalfShape q ∧
      resumeBlum dest f c s = ((storePrimes dest p q s).setDraws (searchPair f c s.draws).2).finish := by
  obtain ⟨p, q, h⟩ := found_of_resumeBlum_run hend
  obtain ⟨hp, hq⟩ := (searchPair_shape hf hc s.draws).1 p q h
  exact ⟨p, q, hp, hq, resumeBlum_found h⟩

theorem resumeGenprime_end {rd : Reg} {c : Option Candidate} {s : State} (hrd : isSingle rd = true)
    (hc : CandidateOk FullShape c) (hend : (resumeGenprime rd c s).run = none) : FullShape ((resumeGenprime rd c s).x rd) := by
  obtain ⟨hfound, -⟩ := searchPrime_shape (kind := .full) hc s.draws
  cases e : (searchPrime .full c s.draws).1 with
  | found p =>
    obtain ⟨hx, -⟩ := resumeGenprime_found ((isSingle_iff rd).1 hrd) (hfound p e).2.1 e
    exact hx.symm ▸ hfound p e
  | retry c' => cases hend.symm.trans (resumeGenprime_retry e).1

theorem resumeBlum_genblum_end {rd ra rb : Reg} {f : Option Nat} {c : Option Candidate} {s : State}
    (hdest : DestOk s (.genblum rd ra rb)) (hf : FirstOk f) (hc : CandidateOk HalfShape c) {t : State}
    (ht : t = resumeBlum (.genblum rd ra rb) f c s) (hend : t.run = none) :
    HalfShape (t.x ra) ∧ HalfShape (t.x rb) ∧ t.x rd = t.x ra * t.x rb := by
  obtain ⟨hdiff, hregs⟩ := hdest
  obtain ⟨hda, hdb, hab⟩ := (pairwiseDifferent_iff rd ra rb).1 hdiff
  have hlt (r : Reg) (hr : r = rd ∨ r = ra ∨ r = rb) : r.toNat < 24 := (isSingle_iff r).1 (hregs r hr).1
  obtain ⟨p, q, hp, hq, e⟩ := resumeBlum_end hf hc (ht ▸ hend)
  obtain ⟨hxa, hxb, hxd⟩ := storePrimes_genblum_x hda hdb hab (hlt rd (.inl rfl)) (hlt ra (.inr (.inl rfl)))
    (hlt rb (.inr (.inr rfl))) s hp hq
  rw [ht, e]
  simp only [State.finish_x, State.setDraws_x]
  rw [hxa, hxb, hxd]
  exact ⟨hp, hq, rfl⟩

theorem resumeBlum_genblumn_end {rd : Reg} {f : Option Nat} {c : Option Candidate} {s : State}
    (hrd : isSingle rd = true) (hf : FirstOk f) (hc : CandidateOk HalfShape c) {t : State}
    (ht : t = resumeBlum (.genblumn rd) f c s) (hend : t.run = none) : ∃ p q, HalfShape p ∧ HalfShape q ∧ t.x rd = p * q := by
  obtain ⟨p, q, hp, hq, e⟩ := resumeBlum_end hf hc (ht ▸ hend)
  refine ⟨p, q, hp, hq, ?_⟩
  rw [ht, e, State.finish_x, State.setDraws_x, storePrimes_genblumn_x ((isSingle_iff rd).1 hrd) s hp hq]

theorem resumeBlum_keygen_end {f : Option Nat} {c : Option Candidate} {s : State} (hf : FirstOk f)
    (hc : CandidateOk HalfShape c) {t : State} (ht : t = resumeBlum .keygen f c s) (hend : t.run = none) :
    KeysHeld t ∧ t.pstate = .keysGenerated := by
  obtain ⟨p, q, hp, hq, e⟩ := resumeBlum_end hf hc (ht ▸ hend)
  rw [ht, e]
  exact ⟨storePrimes_keygen_keysHeld s hp hq, rfl⟩

/-- What a running command leaves when it ends. -/
theorem coreWork_end_shapes {s : State} (h : RunInv s) :
    (∀ rd c, s.run = some (.genprime rd c) → (coreWork s).run = none → FullShape ((coreWork s).x rd)) ∧
    (∀ rd ra rb f c, s.run = some (.blum (.genblum rd ra rb) f c) → (coreWork s).run = none →
      HalfShape ((coreWork s).x ra) ∧ HalfShape ((coreWork s).x rb) ∧
        (coreWork s).x rd = (coreWork s).x ra * (coreWork s).x rb) ∧
    (∀ rd f c, s.run = some (.blum (.genblumn rd) f c) → (coreWork s).run = none →
      ∃ p q, HalfShape p ∧ HalfShape q ∧ (coreWork s).x rd = p * q) ∧
    (∀ f c, s.run = some (.blum .keygen f c) → (coreWork s).run = none →
      KeysHeld (coreWork s) ∧ (coreWork s).pstate = .keysGenerated) := by
  refine ⟨fun rd c hrun hend => ?_, fun rd ra rb f c hrun hend => ?_, fun rd f c hrun hend => ?_, fun f c hrun hend => ?_⟩ <;>
    simp only [RunInv, hrun] at h
  · obtain ⟨hrd, -, hc, -⟩ := h
    rw [coreWork_of_run hrun] at hend ⊢
    exact resumeGenprime_end hrd hc hend
  · obtain ⟨hdest, hf, hc, -⟩ := h
    exact resumeBlum_genblum_end hdest hf hc (coreWork_of_run hrun) hend
  · obtain ⟨⟨hrd, -⟩, hf, hc, -⟩ := h
    exact resumeBlum_genblumn_end hrd hf hc (coreWork_of_run hrun) hend
  · obtain ⟨-, hf, hc, -⟩ := h
    exact resumeBlum_keygen_end hf hc (coreWork_of_run hrun) hend

/-- Settles O48: the shapes come with the invariant, and the history of a search is kept from turn to turn. -/
theorem generatedValuesPassTrialDivision : Obligations.GeneratedValuesPassTrialDivision := by
  refine ⟨fun s h => coreWork_end_shapes ((inv_iff s).1 h).2.1, fun s t m hend => ⟨?_, ?_, ?_, ?_⟩⟩
  · intro rd hrd hact hexec
    cases (exec_genprime_completes hrd hact).symm.trans hexec
    exact resumeGenprime_turns hrd m hend
  · intro rd ra rb hdiff hrd hra hrb hactd hacta hactb hexec
    cases (exec_genblum_completes hrd hra hrb hactd hacta hactb).symm.trans hexec
    obtain ⟨hda, hdb, hab⟩ := (pairwiseDifferent_iff rd ra rb).1 hdiff
    obtain ⟨p, q, hpair, u, hu⟩ := resumeBlum_turns m hend
    obtain ⟨hp, hq⟩ := hpair.shapes
    obtain ⟨hxa, hxb, -⟩ := storePrimes_genblum_x hda hdb hab hrd hra hrb u hp hq
    rw [hu, hu, hxa, hxb]
    exact hpair
  · intro rd hrd hact hexec
    cases (exec_genblumn_completes hrd hact).symm.trans hexec
    obtain ⟨p, q, hpair, u, hu⟩ := resumeBlum_turns m hend
    obtain ⟨hp, hq⟩ := hpair.shapes
    obtain ⟨d, hgp, hgq⟩ := hpair
    exact ⟨p, q, d, hgp, hgq, (hu rd).trans (storePrimes_genblumn_x hrd u hp hq)⟩
  · intro hpstate hn hkp hkq hexec
    cases (exec_keygen_completes hpstate hn hkp hkq).symm.trans hexec
    obtain ⟨p, q, hpair, u, hu⟩ := resumeBlum_turns m hend
    obtain ⟨hp, hq⟩ := hpair.shapes
    obtain ⟨hxp, hxq, -⟩ := storePrimes_keygen_x u hp hq
    rw [hu, hu]
    exact hxp.symm ▸ hxq.symm ▸ hpair

end Sys2Proof.Machine
end

section
/-! PROOFS. The statements of spec/45_esrabin_protocol.md about KEYGEN, SIGN and VERIFY (R181 to R184) and the correctness
of the signature (R186). -/

namespace Sys2Proof.Machine

/-! ## KEYGEN -/

theorem not_readyForKeygen {s : State} (h : ¬ (s.pstate = .uninitialized ∨ s.pstate = .finalized)) :
    (s.pstate != .uninitialized && s.pstate != .finalized) = true := by
  rw [Bool.and_eq_true, bne_iff_ne, bne_iff_ne]
  exact not_or.1 h

theorem readyForKeygen {s : State} (h : s.pstate = .uninitialized ∨ s.pstate = .finalized) :
    (s.pstate != .uninitialized && s.pstate != .finalized) = false := by
  obtain h | h := h <;> rw [h] <;> rfl

/-- KEYGEN writes only its three registers and tables. -/
theorem resumeBlum_keygen_keepsTabs (f : Option Nat) (c : Option Candidate) (s : State) :
    KeepsTabs s (resumeBlum .keygen f c s) [regKN, regKP, regKQ] := by
  obtain ⟨p, q, -, e⟩ | ⟨f', c', -, e⟩ := resumeBlum_cases .keygen f c s <;> rw [e]
  · exact (storePrimes_keygen_tab s p q).2
  · exact fun r _ => rfl

/-- What KEYGEN leaves at its end. -/
theorem resumeBlum_keygen_found {f : Option Nat} {c : Option Candidate} {s : State} {p q : Nat} (hp : HalfShape p)
    (hq : HalfShape q) (h : (searchPair f c s.draws).1 = .found p q) {t : State} (ht : t = resumeBlum .keygen f c s) :
    t.x 17 = p ∧ t.x 18 = q ∧ t.x 16 = p * q ∧ (∀ r : Reg, r = 16 ∨ r = 17 ∨ r = 18 → t.tabActive r = true ∧ TableInv t r) ∧
      t.flags = { s.flags with pstate := .keysGenerated } ∧ t.run = none := by
  obtain ⟨hxp, hxq, hxn, -⟩ := storePrimes_keygen_x s hp hq
  rw [ht, resumeBlum_found h]
  exact ⟨hxp, hxq, hxn, fun r hr => storePrimes_keygen_tableInv s hp hq hr, storePrimes_keygen_flags p q s, rfl⟩

/-- Settles O49: KEYGEN does what its search tells. -/
theorem keygenWritesAKeyPair : Obligations.KeygenWritesAKeyPair := by
  refine fun s => ⟨fun hp => guarded_first (not_readyForKeygen hp),
    fun hp hact => guarded_second (readyForKeygen hp) ((anyTabActive_iff s 16 17 18).2 hact), fun hp hn hkp hkq =>
      ⟨_, exec_keygen_completes hp hn hkp hkq, fun p q h => ?_, fun f c h => ?_, resumeBlum_draws ..,
        resumeBlum_keepsRegs .keygen none none s, resumeBlum_keygen_keepsTabs none none s, resumeBlum_frame .keygen none none s⟩⟩
  · obtain ⟨hshapep, hshapeq⟩ := searchPair_fresh_shape h
    obtain ⟨hxp, hxq, hxn, htab, hflags, hrun⟩ := resumeBlum_keygen_found hshapep hshapeq h rfl
    obtain ⟨hactn, hinvn⟩ := htab 16 (.inl rfl)
    obtain ⟨hactp, hinvp⟩ := htab 17 (.inr (.inl rfl))
    obtain ⟨hactq, hinvq⟩ := htab 18 (.inr (.inr rfl))
    exact ⟨hxp, hxq, hxn, hshapep, hshapeq, hactn, hactp, hactq, hinvn, hinvp, hinvq, hflags, hrun⟩
  · obtain ⟨hrun, hregs⟩ := resumeBlum_retry_spec (dest := .keygen) h
    rw [resumeBlum_retry h] at hrun hregs ⊢
    exact ⟨hrun, hregs, fun r _ => rfl, rfl⟩

/-! ## Square roots modulo two primes -/

/-- For a prime that is 3 modulo 4, a number that meets Euler's criterion has the square root of R183. -/
theorem sq_root_modEq {p h : Nat} (h4 : p % 4 = 3) (heuler : h ^ ((p - 1) / 2) % p = 1) :
    (h ^ ((p + 1) / 4) % p) ^ 2 ≡ h [MOD p] := by
  have hexp : (p + 1) / 4 * 2 = (p - 1) / 2 + 1 := by omega
  have hone : h ^ ((p - 1) / 2) ≡ 1 [MOD p] := by
    rw [Nat.ModEq, heuler, Nat.mod_eq_of_lt (by omega)]
  calc (h ^ ((p + 1) / 4) % p) ^ 2 ≡ (h ^ ((p + 1) / 4)) ^ 2 [MOD p] := (Nat.mod_modEq _ _).pow 2
    _ = h ^ ((p - 1) / 2) * h := by rw [← pow_mul, hexp, pow_succ]
    _ ≡ 1 * h [MOD p] := hone.mul_right h
    _ = h := one_mul h

theorem garner_modEq_left (p q vp vq pinv : Nat) : garner p q vp vq pinv ≡ vp [MOD p] := by
  rw [garner, Nat.ModEq, Nat.add_mul_mod_self_left]

/-- Garner's line with an inverse of `p` gives `vq` modulo `q`. -/
theorem garner_modEq_right {p q vp vq pinv : Nat} (hq : 0 < q) (hinv : p * pinv ≡ 1 [MOD q]) :
    garner p q vp vq pinv ≡ vq [MOD q] := by
  rw [← ZMod.natCast_eq_natCast_iff] at hinv ⊢
  rw [Nat.cast_mul, Nat.cast_one] at hinv
  have hk : (((((vq : Int) - vp) * pinv % q).toNat : Nat) : ZMod q) = ((vq : ZMod q) - vp) * pinv := by
    have hnonneg := Int.emod_nonneg (((vq : Int) - vp) * pinv) (Int.natCast_ne_zero.2 hq.ne')
    rw [← Int.cast_natCast, Int.toNat_of_nonneg hnonneg, ZMod.intCast_mod]
    push_cast
    rfl
  rw [garner, Nat.cast_add, Nat.cast_mul, hk]
  linear_combination ((vq : ZMod q) - vp) * hinv

theorem garner_lt {p q vp : Nat} (hp : vp < p) (hq : 0 < q) (vq pinv : Nat) : garner p q vp vq pinv < p * q := by
  have hlt : ((((vq : Int) - vp) * pinv) % q).toNat < q :=
    (Int.toNat_lt' hq).2 (Int.emod_lt_of_pos _ (Int.natCast_pos.2 hq))
  calc garner p q vp vq pinv < p + p * ((((vq : Int) - vp) * pinv) % q).toNat := Nat.add_lt_add_right hp _
    _ = p * (((((vq : Int) - vp) * pinv) % q).toNat + 1) := by ring
    _ ≤ p * q := Nat.mul_le_mul_left p hlt

theorem garnerRoot_lt {p q : Nat} (hp : 0 < p) (hq : 0 < q) (h : Nat) : garnerRoot p q h < p * q :=
  garner_lt (Nat.mod_lt _ hp) hq _ _

/-- By Fermat's theorem `p^(q-2)` inverts `p` modulo `q`. -/
theorem mul_pow_sub_two_modEq {p q : Nat} (hp : p.Prime) (hq : q.Prime) (hne : p ≠ q) : p * (p ^ (q - 2) % q) ≡ 1 [MOD q] := by
  have hcop : Nat.Coprime p q := (Nat.coprime_primes hp hq).2 hne
  have hfermat : p ^ (q - 1) ≡ 1 [MOD q] := Nat.totient_prime hq ▸ Nat.ModEq.pow_totient hcop
  have hexp : q - 1 = q - 2 + 1 := by have := hq.two_le; omega
  calc p * (p ^ (q - 2) % q) ≡ p * p ^ (q - 2) [MOD q] := (Nat.mod_modEq _ _).mul_left p
    _ = p ^ (q - 1) := by rw [hexp, pow_succ']
    _ ≡ 1 [MOD q] := hfermat

/-- Settles O53: Garner's root is the root modulo each prime, so that its square is the hash modulo both. -/
theorem garnerRootSquaresToTheHash : Obligations.GarnerRootSquaresToTheHash := by
  rintro p q h hp hq hne hp4 hq4 ⟨heulerp, heulerq⟩
  refine ⟨garnerRoot_lt hp.pos hq.pos h, ?_⟩
  have hmodp : garnerRoot p q h ^ 2 ≡ h [MOD p] :=
    ((garner_modEq_left ..).pow 2).trans (sq_root_modEq hp4 heulerp)
  have hmodq : garnerRoot p q h ^ 2 ≡ h [MOD q] :=
    ((garner_modEq_right hq.pos (mul_pow_sub_two_modEq hp hq hne)).pow 2).trans (sq_root_modEq hq4 heulerq)
  exact (Nat.modEq_and_modEq_iff_modEq_mul ((Nat.coprime_primes hp hq).2 hne)).1 ⟨hmodp, hmodq⟩

/-! ## SIGN -/

/-- The key primes as SIGN needs them: odd, of 257 to 512 bits, with their tables open. -/
structure SignKeys (s : State) : Prop where
  tabP : (s.tab regKP).Holds (s.x regKP)
  tabQ : (s.tab regKQ).Holds (s.x regKQ)
  oddP : s.x regKP % 2 = 1
  oddQ : s.x regKQ % 2 = 1
  lowP : 2 ^ 256 ≤ s.x regKP
  lowQ : 2 ^ 256 ≤ s.x regKQ
  highP : s.x regKP < 2 ^ 512
  highQ : s.x regKQ < 2 ^ 512

theorem odd_of_mod_four {p : Nat} (h : p % 4 = 3) : p % 2 = 1 := by omega

theorem HalfShape.odd {p : Nat} (h : HalfShape p) : p % 2 = 1 := odd_of_mod_four h.2.2.1

theorem HalfShape.two_pow_le {p : Nat} (h : HalfShape p) : 2 ^ 256 ≤ p :=
  (Nat.pow_le_pow_right two_pos (by decide)).trans h.1

theorem KeysHeld.signKeys {s : State} (h : KeysHeld s) (hinvp : TableInv s regKP) (hinvq : TableInv s regKQ) : SignKeys s := by
  obtain ⟨-, hactp, hactq, hp, hq, -⟩ := h
  exact ⟨hinvp.holds hactp, hinvq.holds hactq, hp.odd, hq.odd, hp.two_pow_le, hq.two_pow_le, hp.2.1, hq.2.1⟩

theorem le_msbOf {v n : Nat} (h : 2 ^ n ≤ v) : n ≤ msbOf v := (Nat.le_log2 ((Nat.two_pow_pos n).trans_le h).ne').2 h

theorem msbOf_le {v n : Nat} (h : v < 2 ^ (n + 1)) : msbOf v ≤ n := by
  obtain rfl | hv := Nat.eq_zero_or_pos v
  · exact Nat.zero_le n
  · exact Nat.le_of_lt_succ ((Nat.log2_lt hv.ne').2 h)

theorem hashInt_lt (s : State) (a : Imm) (r : Nat) : hashInt s a r < 2 ^ 256 := BitVec.isLt _

/-- The exponentiations of SIGN: bases of at most 512 bits, modulo a prime of at least 257 bits. -/
theorem signExp {t : Table} {m b e : Nat} (ht : t.Holds m) (hodd : m % 2 = 1) (hlow : 2 ^ 256 ≤ m) (hb : b < 2 ^ 512)
    (he : e < 2 ^ 1024) (d : Draws) : expDraw t b e m d = (b ^ e % m, d) := by
  have hbase : msbOf b ≤ 2 * msbOf m := by
    have := msbOf_le (n := 511) hb
    have := le_msbOf hlow
    omega
  rw [expDraw_odd _ _ _ _ hodd, ht.windowExp_eq hodd hbase he]

section Keys

variable {tp tq : Table} {p q h : Nat} (hp : tp.Holds p) (hq : tq.Holds q) (hoddp : p % 2 = 1) (hoddq : q % 2 = 1)
  (hlowp : 2 ^ 256 ≤ p) (hlowq : 2 ^ 256 ≤ q) (hhighp : p < 2 ^ 512) (hhighq : q < 2 ^ 512) (hh : h < 2 ^ 256) (d : Draws)
include hp hq hoddp hoddq hlowp hlowq hhighp hhighq hh

/-- SIGN tests Euler's criterion for both primes, and draws nothing for it. -/
theorem eulerTests_spec :
    (eulerTests tp tq p q h d).2 = d ∧ ((eulerTests tp tq p q h d).1 = true ↔ ResidueForBoth p q h) := by
  have hbase : h < 2 ^ 512 := hh.trans (Nat.pow_lt_pow_right one_lt_two (by decide))
  have hbig : (2 : Nat) ^ 512 < 2 ^ 1024 := Nat.pow_lt_pow_right one_lt_two (by decide)
  unfold eulerTests
  rw [signExp hp hoddp hlowp hbase ((Nat.shiftRight_le _ _).trans_lt (by omega))]
  dsimp only
  rw [signExp hq hoddq hlowq hbase ((Nat.shiftRight_le _ _).trans_lt (by omega))]
  refine ⟨rfl, ?_⟩
  rw [Bool.and_eq_true, decide_eq_true_iff, decide_eq_true_iff, Nat.shiftRight_eq_div_pow, Nat.shiftRight_eq_div_pow]
  rfl

/-- SIGN computes Garner's root, and draws nothing for it. -/
theorem signatureRoot_eq : signatureRoot tp tq p q h d = (garnerRoot p q h, d) := by
  have hbase : h < 2 ^ 512 := hh.trans (Nat.pow_lt_pow_right one_lt_two (by decide))
  have hbig : (2 : Nat) ^ 512 < 2 ^ 1024 := Nat.pow_lt_pow_right one_lt_two (by decide)
  unfold signatureRoot
  rw [signExp hp hoddp hlowp hbase ((Nat.shiftRight_le _ _).trans_lt (by omega))]
  dsimp only
  rw [signExp hq hoddq hlowq hbase ((Nat.shiftRight_le _ _).trans_lt (by omega))]
  dsimp only
  rw [signExp hq hoddq hlowq hhighp (by omega), Nat.shiftRight_eq_div_pow, Nat.shiftRight_eq_div_pow]
  rfl

end Keys

/-- What SIGN leaves when it ends. -/
def State.signed (s : State) (r root : Nat) (d : Draws) : State :=
  ((((s.setX regSR r).setX regSB root).setPstate .keysGenerated).setDraws d).finish

/-- SIGN with a randomizer whose hash is a residue ends with the signature. -/
theorem resumeSign_residue {a : Imm} {s : State} (hkeys : SignKeys s)
    (h : ResidueForBoth (s.x regKP) (s.x regKQ) (hashInt s a (randFill Config.lenS s.draws).1)) :
    resumeSign a s = s.signed (randFill Config.lenS s.draws).1
      (garnerRoot (s.x regKP) (s.x regKQ) (hashInt s a (randFill Config.lenS s.draws).1)) s.draws.afterOneDraw := by
  obtain ⟨hp, hq, hoddp, hoddq, hlowp, hlowq, hhighp, hhighq⟩ := hkeys
  have hh := hashInt_lt s a (randFill Config.lenS s.draws).1
  obtain ⟨hd, htest⟩ := eulerTests_spec hp hq hoddp hoddq hlowp hlowq hhighp hhighq hh s.draws.afterOneDraw
  unfold resumeSign
  dsimp only
  rw [afterOneDraw_eq, if_pos (htest.2 h), hd, signatureRoot_eq hp hq hoddp hoddq hlowp hlowq hhighp hhighq hh]
  rfl

/-- SIGN with any other randomizer stays in Signing. -/
theorem resumeSign_retry {a : Imm} {s : State} (hkeys : SignKeys s)
    (h : ¬ ResidueForBoth (s.x regKP) (s.x regKQ) (hashInt s a (randFill Config.lenS s.draws).1)) :
    resumeSign a s = ((s.setPstate .signing).setDraws s.draws.afterOneDraw).keepRunning (.sign a) := by
  obtain ⟨hp, hq, hoddp, hoddq, hlowp, hlowq, hhighp, hhighq⟩ := hkeys
  have hh := hashInt_lt s a (randFill Config.lenS s.draws).1
  obtain ⟨hd, htest⟩ := eulerTests_spec hp hq hoddp hoddq hlowp hlowq hhighp hhighq hh s.draws.afterOneDraw
  unfold resumeSign
  dsimp only
  rw [afterOneDraw_eq, if_neg (mt htest.1 h), hd]

/-- What a signature leaves in its registers. -/
theorem signed_x (s : State) {r root : Nat} (hr : r < 2 ^ 1024) (hroot : root < 2 ^ 1024) (d : Draws) :
    (s.signed r root d).x regSR = r ∧ (s.signed r root d).x regSB = root ∧ KeepsRegs s (s.signed r root d) [regSR, regSB] := by
  have hlenR : regLen regSR = 1024 := rfl
  have hlenB : regLen regSB = 1024 := rfl
  have hne : regSR ≠ regSB := by decide
  refine ⟨?_, ?_, fun q hq => ?_⟩
  · rw [State.signed, State.finish_x, State.setDraws_x, State.setPstate_x, State.x_setX_ne _ _ hne, State.x_setX_self, hlenR,
      Nat.mod_eq_of_lt hr]
  · rw [State.signed, State.finish_x, State.setDraws_x, State.setPstate_x, State.x_setX_self, hlenB, Nat.mod_eq_of_lt hroot]
  · simp only [List.mem_cons, List.not_mem_nil, or_false, not_or] at hq
    obtain ⟨hsr, hsb⟩ := hq
    rw [State.signed, State.finish_x, State.setDraws_x, State.setPstate_x, State.x_setX_ne _ _ hsb, State.x_setX_ne _ _ hsr]

/-- Garner's root of the keys fits a register. -/
theorem SignKeys.garnerRoot_lt {s : State} (h : SignKeys s) (v : Nat) :
    garnerRoot (s.x regKP) (s.x regKQ) v < s.x regKP * s.x regKQ ∧ s.x regKP * s.x regKQ < 2 ^ 1024 :=
  ⟨Machine.garnerRoot_lt h.tabP.pos h.tabQ.pos v, (Nat.mul_lt_mul'' h.highP h.highQ).trans_eq (pow_add 2 512 512).symm⟩

theorem pstate_check {s : State} (h : s.pstate = .keysGenerated) : (s.pstate != .keysGenerated) = false := by rw [h]; rfl

theorem exec_sign_completes {a : Imm} {s : State} (hp : s.pstate = .keysGenerated)
    (hbuf : a.toNat + s.len.toNat ≤ Config.bufSize) (hsr : s.tabActive regSR = false) (hsb : s.tabActive regSB = false) :
    exec (.sign a) s = .next (resumeSign a s) :=
  guarded_of_none (firstCause_three_none (pstate_check hp) ((pastBuf_eq_false_iff _ _).2 hbuf) (by rw [hsr, hsb]; rfl) ..) ..

theorem State.flags_pstate_self {s : State} {p : PState} (h : s.pstate = p) : { s.flags with pstate := p } = s.flags := by
  subst h
  rfl

/-- SIGN with keys as it needs them: the signature, or state Signing. -/
theorem resumeSign_spec {a : Imm} {s t : State} (hkeys : SignKeys s) (ht : t = resumeSign a s) :
    let r := (randFill 1024 s.draws).1
    let h := messageHash s a.toNat r
    (ResidueForBoth (s.x 17) (s.x 18) h →
        t.x 19 = r ∧ t.x 20 = garnerRoot (s.x 17) (s.x 18) h ∧ t.flags = { s.flags with pstate := .keysGenerated } ∧
          t.run = none ∧ KeepsRegs s t [19, 20]) ∧
      (¬ ResidueForBoth (s.x 17) (s.x 18) h →
        t.flags = { s.flags with pstate := .signing } ∧ t.run = some (.sign a) ∧ KeepsRegs s t []) ∧
      t.draws = s.draws.afterOneDraw := by
  intro r h
  have hr : r < 2 ^ 1024 := randFill_lt s.draws
  obtain ⟨hroot, hmul⟩ := hkeys.garnerRoot_lt h
  by_cases hres : ResidueForBoth (s.x 17) (s.x 18) h
  · obtain ⟨hxr, hxb, hregs⟩ := signed_x s hr (hroot.trans hmul) s.draws.afterOneDraw
    rw [ht, resumeSign_residue hkeys hres]
    exact ⟨fun _ => ⟨hxr, hxb, by simp [State.signed], rfl, hregs⟩, fun hn => absurd hres hn, rfl⟩
  · rw [ht, resumeSign_retry hkeys hres]
    exact ⟨fun hn => absurd hn hres, fun _ => ⟨rfl, rfl, fun q _ => rfl⟩, rfl⟩

/-- Settles O50: SIGN draws, hashes and tests once. -/
theorem signWritesTheSignature : Obligations.SignWritesTheSignature := by
  refine fun a s => ⟨fun hp => guarded_first (bne_iff_ne.2 hp),
    fun hp hbuf => guarded_second (pstate_check hp) ((pastBuf_iff _ _).2 hbuf),
    fun hp hbuf hact => guarded_third (pstate_check hp) ((pastBuf_eq_false_iff _ _).2 hbuf) (Bool.or_eq_true _ _ ▸ hact),
    fun hp hbuf hsr hsb hkeys hinvp hinvq => ?_⟩
  obtain ⟨hdone, hretry, hdraws⟩ := resumeSign_spec (a := a) (hkeys.signKeys hinvp hinvq) rfl
  rw [State.flags_pstate_self hp] at hdone
  exact ⟨_, exec_sign_completes hp hbuf hsr hsb, hdone, hretry, hdraws, resumeSign_frame a s⟩

/-! ## VERIFY -/

/-- VERIFY with an odd modulus compares the square. -/
theorem accepts_eq {n t b h : Nat} (hodd : n % 2 = 1) (hn : n < 2 ^ (t + 1)) :
    accepts n t b h = decide (b < n ∧ b ^ 2 % n = h) := by
  by_cases hb : b < n
  · rw [accepts, mulMont_odd_of_lt hodd (hb.trans hn), ← sq, Bool.decide_and]
  · rw [accepts, decide_eq_false hb, decide_eq_false (fun h' : b < n ∧ _ => hb h'.1), Bool.false_and]

theorem exec_verify_completes {a : Imm} {s : State} (hp : s.pstate = .keysGenerated)
    (hbuf : a.toNat + s.len.toNat ≤ Config.bufSize) :
    exec (.verify a) s = .next ((s.setTf (accepts (s.x regKN) (s.tab regKN).msb (s.x regSB)
      (hashInt s a (s.x regSR)))).setPstate .keysGenerated) :=
  guarded_of_none (firstCause_two_none (pstate_check hp) ((pastBuf_eq_false_iff _ _).2 hbuf) ..) ..

/-- Settles O51: the modulus is odd, so that MULMONT squares. -/
theorem verifyChecksTheSquare : Obligations.VerifyChecksTheSquare := by
  refine fun a s => ⟨fun hp => guarded_first (bne_iff_ne.2 hp),
    fun hp hbuf => guarded_second (pstate_check hp) ((pastBuf_iff _ _).2 hbuf), fun hp hbuf hkeys hinv => ?_⟩
  obtain ⟨hactn, -, -, hshapep, hshapeq, hmul⟩ := hkeys
  have hodd : s.x regKN % 2 = 1 := by rw [hmul, Nat.mul_mod, hshapep.odd, hshapeq.odd]
  have hn : s.x regKN < 2 ^ ((s.tab regKN).msb + 1) := (hinv.holds hactn).lt_two_pow
  refine ⟨_, exec_verify_completes hp hbuf, ?_, fun _ _ => rfl, fun _ _ => rfl, fun _ _ => rfl, rfl, rfl, rfl, rfl, rfl, rfl,
    rfl, rfl, rfl⟩
  rw [accepts_eq hodd hn, ← hp]
  rfl

/-! ## The correctness property -/

theorem signed_byte (s : State) (r root : Nat) (d : Draws) (a : Nat) : (s.signed r root d).byte a = s.byte a := by
  simp [State.signed]

/-- The hash of a message is the same after the signature is written. -/
theorem hashInt_signed (s : State) (r root : Nat) (d : Draws) (a : Imm) (v : Nat) :
    hashInt (s.signed r root d) a v = hashInt s a v := by
  have hlen : (s.signed r root d).len = s.len := by simp [State.signed]
  rw [hashInt, hashInt, hlen, State.memRead_congr (signed_byte s r root d)]

/-- A signature that SIGN has written is accepted. -/
theorem verify_signed {a : Imm} {s : State} (hkeys : SignKeys s) (hn : (s.tab regKN).Holds (s.x regKN))
    (hmul : s.x regKN = s.x regKP * s.x regKQ) (hbuf : a.toNat + s.len.toNat ≤ Config.bufSize) {r root : Nat}
    (hr : r < 2 ^ 1024) (hroot : root < s.x regKN) (hsq : root ^ 2 % s.x regKN = hashInt s a r) (d : Draws) :
    ∃ u, exec (.verify a) (s.signed r root d) = .next u ∧ u.tf = true := by
  have hxn : s.x regKN < 2 ^ 1024 := s.x_lt regKN
  obtain ⟨hxr, hxb, hregs⟩ := signed_x s hr (hroot.trans hxn) d
  have hxkn : (s.signed r root d).x regKN = s.x regKN := hregs regKN (by decide)
  have htab : (s.signed r root d).tab regKN = s.tab regKN := by simp [State.signed]
  have hlen : (s.signed r root d).len = s.len := by simp [State.signed]
  have hodd : s.x regKN % 2 = 1 := by rw [hmul, Nat.mul_mod, hkeys.oddP, hkeys.oddQ]
  refine ⟨_, exec_verify_completes rfl (by rwa [hlen]), ?_⟩
  rw [State.setPstate_tf, State.setTf_tf, hxr, hxb, hxkn, htab, hashInt_signed, accepts_eq hodd hn.lt_two_pow]
  exact decide_eq_true ⟨hroot, hsq⟩

/-- Settles O54: SIGN ends only with a residue, whose root squares to the hash, and the hash is below the modulus. -/
theorem signedMessageVerifies : Obligations.SignedMessageVerifies := by
  intro a s t hp hq hne hp4 hq4 hlowp hhighp hlowq hhighq hmul htabs hsr hsb hbuf hgiven
  have hholds (r : Reg) (hr : r = 16 ∨ r = 17 ∨ r = 18) : (s.tab r).Holds (s.x r) := (htabs r hr).2.holds (htabs r hr).1
  have hkeys : SignKeys s := ⟨hholds 17 (.inr (.inl rfl)), hholds 18 (.inr (.inr rfl)), odd_of_mod_four hp4,
    odd_of_mod_four hq4, hlowp, hlowq,
    hhighp, hhighq⟩
  have ht : t = resumeSign a s := by
    obtain ⟨hpstate, hexec⟩ | ⟨-, hrun, hwork⟩ := hgiven
    · rw [exec_sign_completes hpstate hbuf hsr hsb] at hexec
      cases hexec
      rfl
    · rw [← hwork, coreWork_of_run hrun]
      rfl
  have hh := hashInt_lt s a (randFill Config.lenS s.draws).1
  by_cases hres : ResidueForBoth (s.x regKP) (s.x regKQ) (hashInt s a (randFill Config.lenS s.draws).1)
  · obtain ⟨hroot, hsq⟩ := garnerRootSquaresToTheHash _ _ _ hp hq hne hp4 hq4 hres
    have hbig : hashInt s a (randFill Config.lenS s.draws).1 < s.x 17 * s.x 18 :=
      (hh.trans_le hlowp).trans_le (Nat.le_mul_of_pos_right _ hq.pos)
    rw [Nat.mod_eq_of_lt hbig] at hsq
    rw [ht, resumeSign_residue hkeys hres]
    exact .inr (verify_signed hkeys (hholds 16 (.inl rfl)) hmul hbuf (randFill_lt s.draws) (hmul ▸ hroot) (hmul ▸ hsq) _)
  · rw [ht, resumeSign_retry hkeys hres]
    exact .inl rfl

end Sys2Proof.Machine
end

section
/-! PROOFS. What a command that goes on after a retry leaves (spec/44_primality_generation.md R158,
spec/70_reset_and_hazards.md R236; log entries 2 and 4). -/

namespace Sys2Proof.Machine

/-- The frame of every turn that is left to the CORE. -/
theorem coreWork_frame (s : State) : KeepsBytes s (coreWork s) 0 0 ∧ KeepsControlButBusy s (coreWork s) := by
  cases hrun : s.run with
  | none =>
    rw [coreWork_of_idle hrun]
    exact ⟨fun _ _ => rfl, rfl, rfl, rfl, rfl, rfl, rfl, rfl⟩
  | some j =>
    rw [coreWork_of_run hrun]
    cases j with
    | mrtest rd k => exact resumeMrtest_frame rd k s
    | genprime rd c => exact (resumeGenprime_frame rd c s).2
    | blum dest f c => exact resumeBlum_frame dest f c s
    | sign a => exact (resumeSign_frame a s).2

/-- What an MRTEST that goes on leaves, by the verdict. -/
theorem resumeMrtest_spec {rd : Reg} {k : Nat} {s t : State} (ht : t = resumeMrtest rd k s) :
    let tested := millerRabin (s.x rd) k s.draws
    (tested.1 = .prime → t.run = none ∧ t.tabActive rd = false ∧ t.flags = { s.flags with tf := true }) ∧
      (tested.1 = .composite → t.run = none ∧ t.tabActive rd = false ∧ t.flags = { s.flags with tf := false }) ∧
      (∀ j, tested.1 = .redraw j →
        1 ≤ j ∧ j ≤ k ∧ t.run = some (.mrtest rd j) ∧ t.flags = s.flags ∧ KeepsTabs s t []) ∧
      t.draws = tested.2 ∧ KeepsRegs s t [] ∧ KeepsTabs s t [rd] := by
  subst ht
  have hframe : KeepsRegs s (resumeMrtest rd k s) [] ∧ KeepsTabs s (resumeMrtest rd k s) [rd] :=
    ⟨resumeMrtest_keepsRegs rd k s, resumeMrtest_keepsTabs rd k s⟩
  dsimp only
  rcases e : millerRabin (s.x rd) k s.draws with ⟨_ | _ | j, d⟩
  · obtain ⟨htab, hrun, hflags, hdraws⟩ := endMrtest_spec s rd true d
    rw [resumeMrtest_prime e] at hframe ⊢
    exact ⟨fun _ => ⟨hrun, htab, hflags⟩, nofun, nofun, hdraws, hframe⟩
  · obtain ⟨htab, hrun, hflags, hdraws⟩ := endMrtest_spec s rd false d
    rw [resumeMrtest_composite e] at hframe ⊢
    exact ⟨nofun, fun _ => ⟨hrun, htab, hflags⟩, nofun, hdraws, hframe⟩
  · obtain ⟨hlow, hhigh⟩ := millerRabin_redraw (n := s.x rd) (d := s.draws) (by rw [e])
    rw [resumeMrtest_redraw e] at hframe ⊢
    refine ⟨nofun, nofun, fun j' hj => ?_, rfl, hframe⟩
    cases hj
    exact ⟨hlow, hhigh, rfl, rfl, fun _ _ => rfl⟩

/-- What a GENPRIME that goes on leaves, by its search. -/
theorem resumeGenprime_spec {rd : Reg} {c : Option Candidate} {s t : State} (hrd : isSingle rd = true)
    (hc : CandidateOk FullShape c) (ht : t = resumeGenprime rd c s) :
    let searched := searchPrime .full c s.draws
    (∀ p, searched.1 = .found p → FullShape p ∧ t.x rd = p ∧ t.run = none ∧ KeepsRegs s t [rd]) ∧
      (∀ c', searched.1 = .retry c' → t.run = some (.genprime rd c') ∧ KeepsRegs s t []) ∧
      t.draws = searched.2 ∧ t.flags = s.flags ∧ KeepsTabs s t [] := by
  subst ht
  refine ⟨fun p hp => ?_, fun c' hc' => resumeGenprime_retry hc', resumeGenprime_draws rd c s, resumeGenprime_flags rd c s,
    (resumeGenprime_frame rd c s).1⟩
  have hshape : FullShape p := (searchPrime_shape (kind := .full) hc s.draws).1 p hp
  obtain ⟨hx, hrun⟩ := resumeGenprime_found ((isSingle_iff rd).1 hrd) hshape.2.1 hp
  exact ⟨hshape, hx, hrun, resumeGenprime_keepsRegs rd c s⟩

/-- What GENBLUM leaves at its end. -/
theorem resumeBlum_genblum_found {rd ra rb : Reg} {f : Option Nat} {c : Option Candidate} {s t : State}
    (hdest : DestOk s (.genblum rd ra rb)) {p q : Nat} (hp : HalfShape p) (hq : HalfShape q)
    (h : (searchPair f c s.draws).1 = .found p q) (ht : t = resumeBlum (.genblum rd ra rb) f c s) :
    t.x ra = p ∧ t.x rb = q ∧ t.x rd = p * q ∧ t.flags = s.flags ∧ KeepsRegs s t [rd, ra, rb] ∧ KeepsTabs s t [] := by
  obtain ⟨hdiff, hregs⟩ := hdest
  obtain ⟨hda, hdb, hab⟩ := (pairwiseDifferent_iff rd ra rb).1 hdiff
  have hlt (r : Reg) (hr : r = rd ∨ r = ra ∨ r = rb) : r.toNat < 24 := (isSingle_iff r).1 (hregs r hr).1
  obtain ⟨hxa, hxb, hxd⟩ := storePrimes_genblum_x hda hdb hab (hlt rd (.inl rfl)) (hlt ra (.inr (.inl rfl)))
    (hlt rb (.inr (.inr rfl))) s hp hq
  have hx (r : Reg) : t.x r = (storePrimes (.genblum rd ra rb) p q s).x r := ht ▸ (resumeBlum_found_x h r).1
  refine ⟨(hx ra).trans hxa, (hx rb).trans hxb, (hx rd).trans hxd, ?_, ?_, ?_⟩ <;> rw [ht]
  · exact resumeBlum_flags (by simp) f c s
  · exact resumeBlum_keepsRegs (.genblum rd ra rb) f c s
  · exact resumeBlum_keepsTabs (by simp) f c s

/-- What GENBLUMN leaves at its end. -/
theorem resumeBlum_genblumn_found {rd : Reg} {f : Option Nat} {c : Option Candidate} {s t : State}
    (hdest : DestOk s (.genblumn rd)) {p q : Nat} (hp : HalfShape p) (hq : HalfShape q)
    (h : (searchPair f c s.draws).1 = .found p q) (ht : t = resumeBlum (.genblumn rd) f c s) :
    t.x rd = p * q ∧ t.flags = s.flags ∧ KeepsRegs s t [rd] ∧ KeepsTabs s t [] := by
  subst ht
  exact ⟨(resumeBlum_found_x h rd).1.trans (storePrimes_genblumn_x ((isSingle_iff rd).1 hdest.1) s hp hq),
    resumeBlum_flags (by simp) f c s, resumeBlum_keepsRegs (.genblumn rd) f c s, resumeBlum_keepsTabs (by simp) f c s⟩

/-- What a command for two primes that goes on leaves, by its search. -/
theorem resumeBlum_spec {dest : BlumDest} {f : Option Nat} {c : Option Candidate} {s t : State} (hdest : DestOk s dest)
    (hf : FirstOk f) (hc : CandidateOk HalfShape c) (ht : t = resumeBlum dest f c s) :
    let searched := searchPair f c s.draws
    (∀ p q, searched.1 = .found p q →
      HalfShape p ∧ HalfShape q ∧ t.run = none ∧
        (∀ rd ra rb, dest = .genblum rd ra rb →
          t.x ra = p ∧ t.x rb = q ∧ t.x rd = p * q ∧ t.flags = s.flags ∧ KeepsRegs s t [rd, ra, rb] ∧ KeepsTabs s t []) ∧
        (∀ rd, dest = .genblumn rd → t.x rd = p * q ∧ t.flags = s.flags ∧ KeepsRegs s t [rd] ∧ KeepsTabs s t []) ∧
        (dest = .keygen →
          t.x 17 = p ∧ t.x 18 = q ∧ t.x 16 = p * q ∧ t.tabActive 16 = true ∧ t.tabActive 17 = true ∧
            t.tabActive 18 = true ∧ TableInv t 16 ∧ TableInv t 17 ∧ TableInv t 18 ∧
            t.flags = { s.flags with pstate := .keysGenerated } ∧ KeepsRegs s t [16, 17, 18] ∧
            KeepsTabs s t [16, 17, 18])) ∧
      (∀ f' c', searched.1 = .retry f' c' →
        t.run = some (.blum dest f' c') ∧ t.flags = s.flags ∧ KeepsRegs s t [] ∧ KeepsTabs s t []) ∧
      t.draws = searched.2 := by
  intro searched
  refine ⟨fun p q h => ?_, fun f' c' h => ?_, ht ▸ resumeBlum_draws dest f c s⟩
  · obtain ⟨hp, hq⟩ := (searchPair_shape hf hc s.draws).1 p q h
    have hrun : t.run = none := ht ▸ (resumeBlum_found_x h 0).2
    refine ⟨hp, hq, hrun, ?_, ?_, ?_⟩
    · rintro rd ra rb rfl
      exact resumeBlum_genblum_found hdest hp hq h ht
    · rintro rd rfl
      exact resumeBlum_genblumn_found hdest hp hq h ht
    · rintro rfl
      obtain ⟨hxp, hxq, hxn, htab, hflags, -⟩ := resumeBlum_keygen_found hp hq h ht
      obtain ⟨hactn, hinvn⟩ := htab 16 (.inl rfl)
      obtain ⟨hactp, hinvp⟩ := htab 17 (.inr (.inl rfl))
      obtain ⟨hactq, hinvq⟩ := htab 18 (.inr (.inr rfl))
      exact ⟨hxp, hxq, hxn, hactn, hactp, hactq, hinvn, hinvp, hinvq, hflags, ht ▸ resumeBlum_keepsRegs .keygen f c s,
        ht ▸ resumeBlum_keygen_keepsTabs f c s⟩
  · rw [ht, resumeBlum_retry h]
    exact ⟨rfl, rfl, fun _ _ => rfl, fun _ _ => rfl⟩

/-- What a SIGN that goes on leaves, by the residue test of the next hash. -/
theorem resumeSign_running_spec {a : Imm} {s t : State} (hkeys : SignKeys s) (hp : s.pstate = .signing)
    (ht : t = resumeSign a s) :
    let r := (randFill 1024 s.draws).1
    let h := messageHash s a.toNat r
    (ResidueForBoth (s.x 17) (s.x 18) h →
        t.x 19 = r ∧ t.x 20 = garnerRoot (s.x 17) (s.x 18) h ∧ t.flags = { s.flags with pstate := .keysGenerated } ∧
          t.run = none ∧ KeepsRegs s t [19, 20]) ∧
      (¬ ResidueForBoth (s.x 17) (s.x 18) h →
        t.flags = s.flags ∧ t.run = some (.sign a) ∧ KeepsRegs s t []) ∧
      t.draws = s.draws.afterOneDraw ∧ KeepsTabs s t [] := by
  obtain ⟨hdone, hretry, hdraws⟩ := resumeSign_spec hkeys ht
  rw [State.flags_pstate_self hp] at hretry
  exact ⟨hdone, hretry, hdraws, ht ▸ (resumeSign_frame a s).1⟩

/-- Settles O18: a turn that is left to the CORE resumes the running command, and each one's equation says what it
leaves. -/
theorem runningCommandGoesOn : Obligations.RunningCommandGoesOn := by
  refine ⟨fun s => ⟨fun rest h => step_cons h, takeTurn_nil, coreWork_of_idle⟩, fun s hinv => ?_⟩
  obtain ⟨⟨htabs, hkeyinv, -⟩, hrunInv, -⟩ := (inv_iff s).1 hinv
  obtain ⟨hbytes, hcontrol⟩ := coreWork_frame s
  refine ⟨hbytes, hcontrol, fun rd k hrun => ?_, fun rd c hrun => ?_, fun dest f c hrun => ?_, fun a hrun => ?_⟩ <;>
    simp only [RunInv, hrun] at hrunInv
  · exact resumeMrtest_spec (coreWork_of_run hrun)
  · obtain ⟨hrd, -, hc, -⟩ := hrunInv
    exact resumeGenprime_spec hrd hc (coreWork_of_run hrun)
  · obtain ⟨hdest, hf, hc, -⟩ := hrunInv
    exact resumeBlum_spec hdest hf hc (coreWork_of_run hrun)
  · obtain ⟨hp, -⟩ := hrunInv
    exact resumeSign_running_spec ((hkeyinv (.inr hp)).signKeys (htabs _) (htabs _)) hp (coreWork_of_run hrun)

end Sys2Proof.Machine
end
